-- ==== Sys2Proof/Word.lean ====
section
/-! DEFINITION. The words of the block: a cell and a payload are 8 bits, a cell index or bus address is 4 bits, a
frame is 12 bits and a command word is 32 bits (00_scope.md R7). All are unsigned (00_scope.md R9). -/

namespace Sys2Proof

/-- A command word (`CMD_W`, 00_scope.md R7). -/
abbrev Word := BitVec 32

/-- A cell's contents, a mask, a field value or a payload (`CELL_W`, `DATA_W`, 00_scope.md R7). -/
abbrev Byte := BitVec 8

/-- The 4-bit `r` field of a command: a cell index or a bus address (`ADDR_W`, 00_scope.md R7). -/
abbrev Addr := BitVec 4

/-- The 12 slots of a frame, slot k being bit k (`FRAME_BITS`, 00_scope.md R7, 30_encoding.md R81). -/
abbrev FrameWord := BitVec 12

/-- An index of the Register Image, 0 to 8 (`N_CELLS`, 00_scope.md R7). -/
abbrev CellIndex := Fin 9

end Sys2Proof
end

