-- ==== Sys2Proof/Syntax.lean ====
section
/-! DEFINITION. The five block commands, one constructor per row of spec/opcode_table.json (30_encoding.md R85). -/

namespace Sys2Proof

/-- A block command with its operands, each already a slice of the width its field has (30_encoding.md R83, R86).
Whether an index is admitted is not decided here: the command's own rule checks it (30_encoding.md R87). -/
inductive Instr where
  /-- RSTIMG (40_register_image.md R101). -/
  | rstimg
  /-- APPLY r, m, v: cell index, mask, value already in mask position (40_register_image.md R104). -/
  | apply (r : Addr) (m v : Byte)
  /-- WRITE a, d: bus address, payload (41_bus_transport.md R126). -/
  | write (a : Addr) (d : Byte)
  /-- COMMIT r: cell index and bus address (41_bus_transport.md R127). -/
  | commit (r : Addr)
  /-- READ r: cell index (40_register_image.md R106). -/
  | read (r : Addr)
  deriving DecidableEq, Repr

end Sys2Proof
end

