-- ==== Sys2Proof/Decode.lean ====
section
/-! DEFINITION. The decoder, total on every 32-bit command word (30_encoding.md R83, R87), and after it the encoder,
written from the same field table. -/

namespace Sys2Proof

/-- `cmd[31:28]` (30_encoding.md R83). -/
def opField (w : Word) : BitVec 4 := w.extractLsb' 28 4

/-- `cmd[27:24]` (30_encoding.md R83, R86). -/
def rField (w : Word) : Addr := w.extractLsb' 24 4

/-- `cmd[15:8]` (30_encoding.md R83, R86). -/
def mField (w : Word) : Byte := w.extractLsb' 8 8

/-- `cmd[7:0]` (30_encoding.md R83, R86). -/
def vField (w : Word) : Byte := w.extractLsb' 0 8

/-- The decoder of 30_encoding.md R87; `none` is its IllegalCommand (R88, 60_exceptions.md R203). -/
def decode (w : Word) : Option Instr :=
  match (opField w).toNat with
  | 1 => if w.extractLsb' 0 28 = 0 then some .rstimg else none
  | 2 => if w.extractLsb' 16 8 = 0 then some (.apply (rField w) (mField w) (vField w)) else none
  | 3 => if w.extractLsb' 8 16 = 0 then some (.write (rField w) (vField w)) else none
  | 4 => if w.extractLsb' 0 24 = 0 then some (.commit (rField w)) else none
  | 5 => if w.extractLsb' 0 24 = 0 then some (.read (rField w)) else none
  | _ => none

/-- The decoder on a word numbered as spec/opcode_table.json numbers it: a command is one 32-bit word, so bit k of the
table's number is `cmd[k]`, and bits at and above `nbits` are 0. DEDUCED, log 16. -/
def decodeTableWord (nbits w : Nat) : Option Instr := decode (BitVec.ofNat 32 (w % 2 ^ nbits))

/-- A command word from its fields, high to low: op, r, the zero byte, m, v (30_encoding.md R83). -/
def commandWord (op : BitVec 4) (r : Addr) (m v : Byte) : Word := op ++ r ++ 0#8 ++ m ++ v

/-- The command word of a command (30_encoding.md R83, R85). -/
def encode : Instr → Word
  | .rstimg => commandWord 1 0 0 0
  | .apply r m v => commandWord 2 r m v
  | .write a d => commandWord 3 a 0 d
  | .commit r => commandWord 4 r 0 0
  | .read r => commandWord 5 r 0 0

end Sys2Proof
end

