-- ==== Sys2Proof/Config.lean ====
section
/-! DEFINITION. The configuration of a block (10_state.md R47): the free values that the spec leaves open, the block's
own timing, and the field map of the facade, a record the host sequences take as an argument. -/

namespace Sys2Proof

/-- The three output lines (10_state.md R44). -/
inductive Line where
  | clk
  | data
  | latch
  deriving DecidableEq, Repr

/-- `draw()` of 00_scope.md R11: the n-th value that one block instance draws, under no law (10_state.md R34,
92_eei_decisions.md D7). The step applies it to the instance's name and to a counter that every draw advances, so that
neither two draws nor two instances are related (60_exceptions.md R215). Free value, DESIGN CHOICE of form: log 4. -/
opaque Config.draw : Nat → Nat → Byte

/-- The configuration of one block instance that its commands read (10_state.md R47, 60_exceptions.md R215). It is
fixed for a run: no command and no reset changes it. The two waits are held as what they exceed their bounds by, so
that neither can be below its bound (00_scope.md R7, 70_reset_and_hazards.md R240). Log 6. -/
structure BlockConfig where
  /-- The model's own: the name of this instance, which tells its draws from another's (log 4). -/
  instanceId : Nat
  /-- How far `T_SETTLE` exceeds 1 time unit. -/
  settleExtra : Nat
  /-- How far `T_LATCH_HIGH` exceeds 4 time units. -/
  latchExtra : Nat
  /-- `T_EDGE_MIN`, in time units (41_bus_transport.md R123). -/
  edgeMin : Nat
  deriving DecidableEq, Repr

/-- The defaults of 00_scope.md R7: `T_SETTLE` = 1, `T_LATCH_HIGH` = 4, `T_EDGE_MIN` = 0. That a block is named 0 if
nothing names it is the model's own, DESIGN CHOICE (log 4). -/
def BlockConfig.defaults : BlockConfig where
  instanceId := 0
  settleExtra := 0
  latchExtra := 0
  edgeMin := 0

/-- The field map of 42_host_sequences.md R152, every entry OPEN there. The four bit positions and the two parts of
`CP_MASK` are the positions that R152 (d), (e), (f) and R151 speak of; DEDUCED, log 14. -/
structure FieldMap where
  pwrMask : Byte
  pwrOn : Byte
  pwrOff : Byte
  /-- The power-enable bit of cell 0 (R152 (d)). -/
  pwrEnableBit : Fin 8
  /-- The crystal-oscillator enable bit of cell 0 (R152 (d)). -/
  crystalBit : Fin 8
  muteMask : Byte
  muteOn : Byte
  muteOff : Byte
  inMask : Byte
  inLow : Byte
  inMed : Byte
  inHigh : Byte
  peMask : Byte
  peNone : Byte
  pe50 : Byte
  pe75 : Byte
  /-- The pre-emphasis enable bit of cell 0 (R152 (e)). -/
  peEnableBit : Fin 8
  /-- The pre-emphasis region bit of cell 0 (R152 (e)). -/
  peRegionBit : Fin 8
  outMask : Byte
  outLow : Byte
  outMed : Byte
  outHigh : Byte
  uldMask : Byte
  uldOff : Byte
  uldOn : Byte
  pilotReg : Addr
  pilotMask : Byte
  pilotOff : Byte
  pilotOn : Byte
  subcReg : Addr
  subcMask : Byte
  subcOff : Byte
  subcOn : Byte
  cpMask : Byte
  cpLow : Byte
  cpHigh : Byte
  /-- The 5-bit charge-pump field inside `cpMask` (R151). -/
  cpField : Byte
  /-- The fixed secondary sub-field inside `cpMask` (R151, R152 (f)). -/
  cpSecondary : Byte
  deriving DecidableEq, Repr

/-- The parameters of the host sequences: the field map and the chip-reset transaction's address and payload, all
OPEN (00_scope.md R7, 92_eei_decisions.md D13, D16). Log 14. -/
structure FacadeParams where
  fields : FieldMap
  chipResetAddr : Addr
  chipResetData : Byte
  deriving DecidableEq, Repr

end Sys2Proof
end

