-- ==== Sys2Proof/Machine/State.lean ====
section
/-! DEFINITION. The state of the block, as plain data (10_state.md R51), with its reset value, and the reasons a step
of the model can stop. -/

namespace Sys2Proof.Machine

/-- Why a step answers no next state though no command word is at fault. A raised fault of the block is not one of
these: it is a next state whose `fault` record is set (60_exceptions.md R201). -/
inductive Fault where
  /-- Raised by `step` in a block whose fault record is set, unless the next input is a block reset or a second
  host's command: the block is stuck (60_exceptions.md R208). Safe: nothing runs. -/
  | faulted
  /-- Raised by `step` in a state whose sequencer phase is not IDLE, which no run reaches because a command completes
  before the next is accepted (10_state.md R33, R50; log 3). Safe: nothing runs. -/
  | sequencerBusy
  deriving DecidableEq, Repr

/-- What the model declines to run. -/
inductive Refusal where
  /-- Raised by an arm of `exec` for an instruction without a meaning; no arm is one. Safe. -/
  | notModelled (mnemonic : String)
  /-- Raised by `step` when a second host issues a command to this instance, which the model refuses
  (60_exceptions.md R215, 93_implementation_defined.md U14; log 11). Safe: nothing runs. -/
  | secondHost
  deriving DecidableEq, Repr

/-- The kinds of fault a command word can raise (60_exceptions.md R202). -/
inductive FaultKind where
  | illegalCommand
  | badIndex
  | valueOutsideMask
  deriving DecidableEq, Repr

/-- `Fault(kind, cmd)`: the kind and the 32-bit command word that raised it (10_state.md R45). -/
structure FaultRecord where
  kind : FaultKind
  cmd : Word
  deriving DecidableEq, Repr

/-- One thing for each of the three lines (10_state.md R44). -/
structure PerLine (α : Type) where
  clk : α
  data : α
  latch : α
  deriving DecidableEq, Repr

/-- The direction of a pin (70_reset_and_hazards.md R231). -/
inductive PinDir where
  | input
  | output
  deriving DecidableEq, Repr

/-- An event of the output trace (10_state.md R46). A level `true` is 1, high (00_scope.md R12). -/
inductive Event where
  /-- `Drive(L, b)`. -/
  | drive (l : Line) (b : Bool)
  /-- `Wait(n)`: at least n time units pass before the next event (00_scope.md R11). -/
  | wait (n : Nat)
  /-- `ReadData(i, v)`. -/
  | readData (i : CellIndex) (v : Byte)
  deriving DecidableEq, Repr

/-- The frame sequencer's phase: IDLE, or the index of the next event of the frame in progress (10_state.md R33). -/
inductive Phase where
  | idle
  | at (k : Fin 42)
  deriving DecidableEq, Repr

/-- One input from outside the block (log 1). -/
inductive Input where
  /-- The owning host presents a command word (30_encoding.md R84). -/
  | command (w : Word)
  /-- A block reset (70_reset_and_hazards.md R230; log 12). -/
  | blockReset
  /-- A second host presents a command word (60_exceptions.md R215; log 11). -/
  | secondHost (w : Word)
  deriving DecidableEq, Repr

/-- The whole state of the block (10_state.md R51), its configuration, the inputs it has not yet taken, and the count of
draws: one block instance, independent of every other (60_exceptions.md R215). -/
structure State where
  /-- The configuration of this instance, which nothing changes (10_state.md R47; logs 6 and 18). -/
  config : BlockConfig
  /-- The Register Image (10_state.md R31). Cells 5 and 7 are held but never read or written (R34; log 5). -/
  img : Vector Byte 9
  /-- `line.CLK`, `line.DATA`, `line.LATCH` (10_state.md R44). -/
  levels : PerLine Bool
  /-- The directions of the three pins (70_reset_and_hazards.md R231; log 10). -/
  dirs : PerLine PinDir
  /-- The sticky fault record (10_state.md R45). -/
  fault : Option FaultRecord
  /-- The output history, oldest event first (10_state.md R46). -/
  trace : List Event
  /-- The frame sequencer's phase (10_state.md R33). -/
  phase : Phase
  /-- The model's own: how many draws have been made (log 4). -/
  draws : Nat
  /-- The model's own: the inputs not yet taken, next one first; a command at the head is the one presented on the
  command interface (10_state.md R50; log 1). -/
  inputs : List Input
  deriving DecidableEq, Repr

/-- The state after block reset of a block with a given configuration (10_state.md R51, 70_reset_and_hazards.md R230).
DESIGN CHOICE: cells 5 and 7 hold 0x00 (log 5), no draw has been made (log 4), and no input is waiting (log 1). -/
def State.resetWith (c : BlockConfig) : State where
  config := c
  img := #v[0x00, 0xB4, 0x05, 0x8A, 0x2E, 0x00, 0x1A, 0x00, 0x1B]
  levels := ⟨false, false, false⟩
  dirs := ⟨.output, .output, .output⟩
  fault := none
  trace := []
  phase := .idle
  draws := 0
  inputs := []

/-- The state after block reset of a block with the default timing (00_scope.md R7; log 6). -/
def State.reset : State := State.resetWith BlockConfig.defaults

end Sys2Proof.Machine
end

