-- ==== Sys2Proof/Machine/Operands.lean ====
section
/-! DEFINITION. How a command's operands are used: which cell an index names, the 12-bit frame word, the masked field
update, and the default byte of a cell. -/

namespace Sys2Proof.Machine

/-- The cell an index names for APPLY and COMMIT: 0, 1, 2, 3, 4, 6 or 8 (40_register_image.md R104,
41_bus_transport.md R127, 60_exceptions.md R204). -/
def usedCell (r : Addr) : Option CellIndex :=
  match r.toNat with
  | 0 => some 0
  | 1 => some 1
  | 2 => some 2
  | 3 => some 3
  | 4 => some 4
  | 6 => some 6
  | 8 => some 8
  | _ => none

/-- The cell an index names for READ: 0 to 8 (40_register_image.md R106, 60_exceptions.md R204). -/
def readableCell (r : Addr) : Option CellIndex :=
  if h : r.toNat < 9 then some ⟨r.toNat, h⟩ else none

/-- A reserved cell, 5 or 7 (10_state.md R34). -/
def isReserved (i : CellIndex) : Bool := i == 5 || i == 7

/-- `F = (d << 4) | a` (30_encoding.md R81). -/
def frameWord (a : Addr) (d : Byte) : FrameWord := (d.setWidth 12) <<< 4 ||| a.setWidth 12

/-- The masked field update (40_register_image.md R102). -/
def masked (old mask v : Byte) : Byte := (old &&& ~~~mask) ||| v

/-- The documented default of a used cell (10_state.md R32); `none` for the reserved cells. -/
def defaultCell (i : CellIndex) : Option Byte :=
  match i with
  | 0 => some 0x00
  | 1 => some 0xB4
  | 2 => some 0x05
  | 3 => some 0x8A
  | 4 => some 0x2E
  | 5 => none
  | 6 => some 0x1A
  | 7 => none
  | 8 => some 0x1B

end Sys2Proof.Machine
end

