-- ==== Sys2Proof/Machine/Flags.lean ====
section
/-! DEFINITION. The block has no condition codes and no status but the fault record (10_state.md R48): here are the
record's codes and the confinement check; the index checks are `usedCell` and `readableCell`. -/

namespace Sys2Proof.Machine

/-- The code reported for a kind (60_exceptions.md R202). -/
def kindCode : FaultKind → Nat
  | .illegalCommand => 1
  | .badIndex => 2
  | .valueOutsideMask => 3

/-- The code reported for a fault record; 0 means no fault (60_exceptions.md R202). -/
def faultCode : Option FaultRecord → Nat
  | none => 0
  | some f => kindCode f.kind

/-- `v & ~m != 0` (40_register_image.md R103, 60_exceptions.md R205). -/
def outsideMask (m v : Byte) : Bool := v &&& ~~~m != 0

end Sys2Proof.Machine
end

