-- ==== Sys2Proof/Machine/Ops.lean ====
section
/-! DEFINITION. The operations every meaning is written with: the image's cells, the lines and the trace
(00_scope.md R11), a draw, raising a fault and the block reset that ends one, the frame sequencer, and what holds a
command back. -/

namespace Sys2Proof.Machine

/-- `img[i]` (00_scope.md R11). -/
def State.readCell (s : State) (i : CellIndex) : Byte := s.img[i]

/-- `img[i] <- v` (00_scope.md R11). -/
def State.writeCell (s : State) (i : CellIndex) (v : Byte) : State := { s with img := s.img.set i v }

/-- The entry of one line. -/
def PerLine.get {α : Type} (p : PerLine α) : Line → α
  | .clk => p.clk
  | .data => p.data
  | .latch => p.latch

/-- The entry of one line replaced. -/
def PerLine.put {α : Type} (p : PerLine α) (l : Line) (x : α) : PerLine α :=
  match l with
  | .clk => { p with clk := x }
  | .data => { p with data := x }
  | .latch => { p with latch := x }

/-- `emit(e)` (00_scope.md R11): commands only append to the trace (10_state.md R46). -/
def State.emit (s : State) (e : Event) : State := { s with trace := s.trace ++ [e] }

/-- `drive(L, b)` (00_scope.md R11): the line takes the level and the event is appended. -/
def State.drive (s : State) (l : Line) (b : Bool) : State :=
  { s with levels := s.levels.put l b, trace := s.trace ++ [.drive l b] }

/-- `wait(n)` (00_scope.md R11). -/
def State.wait (s : State) (n : Nat) : State := s.emit (.wait n)

/-- An event happens: a drive moves its line, and every event is appended. -/
def State.perform (s : State) : Event → State
  | .drive l b => s.drive l b
  | .wait n => s.wait n
  | .readData i v => s.emit (.readData i v)

/-- The byte `draw()` gives next: a free value (00_scope.md R11, 10_state.md R34; log 4). -/
def State.nextDraw (s : State) : Byte := Config.draw s.config.instanceId s.draws

/-- The draw has been used, so the next one is fresh (10_state.md R34; log 4). -/
def State.countDraw (s : State) : State := { s with draws := s.draws + 1 }

/-- `raise Fault(kind, cmd)`: the record is set and nothing else changes (60_exceptions.md R201, R207). -/
def raiseFault (k : FaultKind) (cmd : Word) (s : State) : State := { s with fault := some ⟨k, cmd⟩ }

/-- Block reset, the only return from a fault (70_reset_and_hazards.md R230, 60_exceptions.md R208). The
configuration is no state to be reset (10_state.md R47), the outside world's inputs are not the block's to clear, and
draws stay fresh across a reset; DESIGN CHOICE, log 12. -/
def blockReset (s : State) : State := { State.resetWith s.config with inputs := s.inputs, draws := s.draws }

/-- The seven used cells take their defaults, the others are not written (40_register_image.md R101). -/
def State.loadDefaults (s : State) : State :=
  { s with img := Vector.ofFn fun i => (defaultCell i).getD s.img[i] }

/-- `T_SETTLE`, at least 1 time unit (00_scope.md R7). -/
def tSettle (c : BlockConfig) : Nat := 1 + c.settleExtra

/-- `T_LATCH_HIGH`, at least 4 time units (00_scope.md R7). -/
def tLatchHigh (c : BlockConfig) : Nat := 4 + c.latchExtra

/-- The event of a frame at a phase (41_bus_transport.md R121). -/
def phaseEvent (c : BlockConfig) (f : FrameWord) (k : Fin 42) : Event :=
  if k.val = 0 then .drive .latch false
  else if k.val ≤ 36 then
    match (k.val - 1) % 3 with
    | 0 => .drive .clk false
    | 1 => .drive .data (f.getLsbD ((k.val - 1) / 3))
    | _ => .drive .clk true
  else match k.val with
    | 37 => .wait (tSettle c)
    | 38 => .drive .latch true
    | 39 => .wait (tLatchHigh c)
    | 40 => .drive .latch false
    | _ => .drive .clk false

/-- The phase after a phase: the next event's index, or IDLE after the last (10_state.md R33). -/
def nextPhase (k : Fin 42) : Phase := if h : k.val + 1 < 42 then .at ⟨k.val + 1, h⟩ else .idle

/-- One event of the frame in progress; nothing when no frame is. -/
def sequencerTick (f : FrameWord) (s : State) : State :=
  match s.phase with
  | .idle => s
  | .at k => { s.perform (phaseEvent s.config f k) with phase := nextPhase k }

/-- The sequencer runs for n events. -/
def runSequencer : Nat → FrameWord → State → State
  | 0, _, s => s
  | n + 1, f, s => runSequencer n f (sequencerTick f s)

/-- `FRAME(a, d)`: the sequencer runs through phases 0 to 41 and is IDLE again (41_bus_transport.md R120, R121,
10_state.md R33). -/
def frame (a : Addr) (d : Byte) (s : State) : State := runSequencer 42 (frameWord a d) { s with phase := .at 0 }

/-- Why the block accepts no command, if it does not (10_state.md R50, 60_exceptions.md R208; logs 2 and 3). -/
def held (s : State) : Option Fault :=
  if s.fault.isSome then some .faulted
  else if s.phase = .idle then none
  else some .sequencerBusy

end Sys2Proof.Machine
end

