-- ==== Sys2Proof/Machine/Image.lean ====
section
/-! DEFINITION. The Register Image commands RSTIMG, APPLY and READ (40_register_image.md). A fault is recorded with the
command word, which is the word the command is encoded as (log 8). -/

namespace Sys2Proof.Machine

/-- RSTIMG (40_register_image.md R101). -/
def execRstimg (s : State) : Host.Outcome State Fault Refusal := .next s.loadDefaults

/-- APPLY (40_register_image.md R104), the index checked before the value (60_exceptions.md R204 to R206). -/
def execApply (r : Addr) (m v : Byte) (s : State) : Host.Outcome State Fault Refusal :=
  match usedCell r with
  | none => .next (raiseFault .badIndex (encode (.apply r m v)) s)
  | some i =>
    if outsideMask m v then .next (raiseFault .valueOutsideMask (encode (.apply r m v)) s)
    else .next (s.writeCell i (masked (s.readCell i) m v))

/-- READ (40_register_image.md R106): a reserved cell reports a draw (10_state.md R34). -/
def execRead (r : Addr) (s : State) : Host.Outcome State Fault Refusal :=
  match readableCell r with
  | none => .next (raiseFault .badIndex (encode (.read r)) s)
  | some i =>
    if isReserved i then .next (s.countDraw.perform (.readData i s.nextDraw))
    else .next (s.perform (.readData i (s.readCell i)))

end Sys2Proof.Machine
end

