-- ==== Sys2Proof/Machine/Transport.lean ====
section
/-! DEFINITION. The Bus Transport commands WRITE and COMMIT (41_bus_transport.md), each one frame. -/

namespace Sys2Proof.Machine

/-- WRITE: every address and every payload is sent as given (41_bus_transport.md R126). -/
def execWrite (a : Addr) (d : Byte) (s : State) : Host.Outcome State Fault Refusal := .next (frame a d s)

/-- COMMIT: a used cell's current value is sent to the same bus address (41_bus_transport.md R127). -/
def execCommit (r : Addr) (s : State) : Host.Outcome State Fault Refusal :=
  match usedCell r with
  | none => .next (raiseFault .badIndex (encode (.commit r)) s)
  | some i => .next (frame r (s.readCell i) s)

end Sys2Proof.Machine
end

