-- ==== Sys2Proof/Machine/Dispatch.lean ====
section
/-! DEFINITION. One arm per command. -/

namespace Sys2Proof.Machine

def exec (i : Instr) (s : State) : Host.Outcome State Fault Refusal :=
  match i with
  | .rstimg => Sys2Proof.Machine.execRstimg s
  | .apply r m v => Sys2Proof.Machine.execApply r m v s
  | .write a d => Sys2Proof.Machine.execWrite a d s
  | .commit r => Sys2Proof.Machine.execCommit r s
  | .read r => Sys2Proof.Machine.execRead r s

end Sys2Proof.Machine
end

