-- ==== Sys2Proof/Machine/Step.lean ====
section
/-! DEFINITION. One step: the next input from outside is taken. A command word is decoded and executed to completion
(30_encoding.md R84), an illegal word raises its fault (60_exceptions.md R203), a block reset resets
(70_reset_and_hazards.md R230), a second host is refused (60_exceptions.md R215). -/

namespace Sys2Proof.Machine

/-- A command word the block has accepted (30_encoding.md R84, R87, 60_exceptions.md R203). -/
def runWord (w : Word) (s : State) : Host.Outcome State Fault Refusal :=
  match decode w with
  | some i => exec i s
  | none => .next (raiseFault .illegalCommand w s)

/-- One step. An idle block that no input waits for stays as it is; a block that accepts no command is stuck, unless
a block reset comes (60_exceptions.md R208; logs 1, 2, 3, 11, 12). -/
def step (s : State) : Host.Outcome State Fault Refusal :=
  match s.inputs with
  | .blockReset :: rest => .next (blockReset { s with inputs := rest })
  | .secondHost _ :: _ => .refused .secondHost
  | .command w :: rest =>
    match held s with
    | some f => .fault f
    | none => runWord w { s with inputs := rest }
  | [] =>
    match held s with
    | some f => .fault f
    | none => .next s

/-- The state with a command word waiting as the next input, its bits numbered as spec/opcode_table.json numbers them
(log 16). The block fetches nothing (10_state.md R33): the host presents the word. -/
def State.withFetchWord (s : State) (nbits w : Nat) : State :=
  { s with inputs := .command (BitVec.ofNat 32 (w % 2 ^ nbits)) :: s.inputs }

end Sys2Proof.Machine
end

