-- ==== Sys2Proof/Machine/Facade.lean ====
section
/-! DEFINITION. The host command sequences of 42_host_sequences.md: each is a fixed list of block commands that the host
issues in order (R150). They are no state and no logic of the block. The OPEN parameters are an argument (log 14). -/

namespace Sys2Proof.Machine

/-- The options of INLEVEL and OUTLEVEL, with a code the setter does not know (R159, R160, R154). -/
inductive LevelOption where
  | low
  | medium
  | high
  | other
  deriving DecidableEq, Repr

/-- The options of PREEMPH (R161, R154). -/
inductive PreemphOption where
  | off
  | us50
  | us75
  | other
  deriving DecidableEq, Repr

/-- The options of PILOT, SUBC and ULD (R162 to R164, R154). -/
inductive SwitchOption where
  | disabled
  | enabled
  | other
  deriving DecidableEq, Repr

/-- The options of CP: high is the fast setting, low the slow one (R165). -/
inductive PumpOption where
  | low
  | high
  deriving DecidableEq, Repr

/-- `SET r, m, v` (R153). -/
def seqSet (r : Addr) (m v : Byte) : List Instr := [.apply r m v, .commit r]

/-- `SETOPT(field, o)` with the option's value, `none` for an unrecognised option: the cell is sent all the same
(R154). -/
def seqSetOption (r : Addr) (m : Byte) : Option Byte → List Instr
  | some v => seqSet r m v
  | none => [.commit r]

/-- `POWERON` (R155). -/
def seqPowerOn (p : FacadeParams) : List Instr := seqSet 0 p.fields.pwrMask p.fields.pwrOn

/-- `POWEROFF` (R156). -/
def seqPowerOff (p : FacadeParams) : List Instr := seqSet 0 p.fields.pwrMask p.fields.pwrOff

/-- `MUTE` (R157). -/
def seqMute (p : FacadeParams) : List Instr := seqSet 0 p.fields.muteMask p.fields.muteOn

/-- `UNMUTE` (R158). -/
def seqUnmute (p : FacadeParams) : List Instr := seqSet 0 p.fields.muteMask p.fields.muteOff

/-- The value of an INLEVEL option (R159). -/
def inLevelValue (f : FieldMap) : LevelOption → Option Byte
  | .low => some f.inLow
  | .medium => some f.inMed
  | .high => some f.inHigh
  | .other => none

/-- `INLEVEL o` (R159). -/
def seqInLevel (p : FacadeParams) (o : LevelOption) : List Instr :=
  seqSetOption 0 p.fields.inMask (inLevelValue p.fields o)

/-- The value of an OUTLEVEL option (R160). -/
def outLevelValue (f : FieldMap) : LevelOption → Option Byte
  | .low => some f.outLow
  | .medium => some f.outMed
  | .high => some f.outHigh
  | .other => none

/-- `OUTLEVEL o` (R160). -/
def seqOutLevel (p : FacadeParams) (o : LevelOption) : List Instr :=
  seqSetOption 2 p.fields.outMask (outLevelValue p.fields o)

/-- The value of a PREEMPH option (R161). -/
def preemphValue (f : FieldMap) : PreemphOption → Option Byte
  | .off => some f.peNone
  | .us50 => some f.pe50
  | .us75 => some f.pe75
  | .other => none

/-- `PREEMPH o` (R161). -/
def seqPreemph (p : FacadeParams) (o : PreemphOption) : List Instr :=
  seqSetOption 0 p.fields.peMask (preemphValue p.fields o)

/-- The value of an option that is disabled or enabled. -/
def switchValue (off on : Byte) : SwitchOption → Option Byte
  | .disabled => some off
  | .enabled => some on
  | .other => none

/-- `PILOT o` (R162). -/
def seqPilot (p : FacadeParams) (o : SwitchOption) : List Instr :=
  seqSetOption p.fields.pilotReg p.fields.pilotMask (switchValue p.fields.pilotOff p.fields.pilotOn o)

/-- `SUBC o` (R163). -/
def seqSubcarrier (p : FacadeParams) (o : SwitchOption) : List Instr :=
  seqSetOption p.fields.subcReg p.fields.subcMask (switchValue p.fields.subcOff p.fields.subcOn o)

/-- `ULD o` (R164). -/
def seqUnlockDetect (p : FacadeParams) (o : SwitchOption) : List Instr :=
  seqSetOption 2 p.fields.uldMask (switchValue p.fields.uldOff p.fields.uldOn o)

/-- The value of a CP option (R165). -/
def pumpValue (f : FieldMap) : PumpOption → Byte
  | .low => f.cpLow
  | .high => f.cpHigh

/-- `CP o` (R165). -/
def seqChargePump (p : FacadeParams) (o : PumpOption) : List Instr :=
  seqSetOption 6 p.fields.cpMask (some (pumpValue p.fields o))

/-- `CHIPRST` (R166). -/
def seqChipReset (p : FacadeParams) : List Instr := [.write p.chipResetAddr p.chipResetData]

/-- `FULLRST` (R167). -/
def seqFullReset : List Instr := [.rstimg]

/-- `band(f)` (R168). -/
def band (f : Nat) : Byte :=
  if f < 88500000 then 3
  else if f < 97900000 then 2
  else if f < 103000000 then 1
  else 0

/-- `w(f)`, with truncating division (R169, 90_conflicts.md C1). -/
def tuningWord (f : Nat) : Nat := (f + 304000) / 8192

/-- `lo(f)` (R169). -/
def tuningLow (f : Nat) : Byte := BitVec.ofNat 8 (tuningWord f % 256)

/-- `hi(f)` (R169). -/
def tuningHigh (f : Nat) : Byte := BitVec.ofNat 8 (tuningWord f / 256)

/-- A frequency TUNE and BEGIN admit: its word fits 14 bits (R170). -/
def admitted (f : Nat) : Bool := tuningWord f < 16384

/-- The steps of `TUNE f, rst` (R171). -/
def tuneSteps (p : FacadeParams) (f : Nat) (rst : Bool) : List Instr :=
  seqSet 8 0x03 (band f) ++
  seqChargePump p .high ++
  seqSet 3 0xFF (tuningLow f) ++
  seqSet 4 0xFF (tuningHigh f) ++
  seqChargePump p .low ++
  (if rst then seqChipReset p else [])

/-- `TUNE f, rst`; refused for a frequency that is not admitted (R170, R171). -/
def seqTune (p : FacadeParams) (f : Nat) (rst : Bool) : Option (List Instr) :=
  if admitted f then some (tuneSteps p f rst) else none

/-- `BEGIN f`, twelve steps; refused for a frequency that is not admitted (R173, R170). -/
def seqBegin (p : FacadeParams) (f : Nat) : Option (List Instr) :=
  if admitted f then
    some (seqFullReset ++
      seqChipReset p ++
      seqPilot p .enabled ++
      seqOutLevel p .medium ++
      seqUnlockDetect p .enabled ++
      seqSubcarrier p .disabled ++
      tuneSteps p f false ++
      seqPowerOn p ++
      seqUnmute p ++
      seqPreemph p .us50 ++
      seqInLevel p .medium ++
      seqChipReset p)
  else none

/-- `DUMP`: the nine cells in index order (R177). -/
def seqDump : List Instr := (List.range 9).map fun i => .read (BitVec.ofNat 4 i)

end Sys2Proof.Machine
end

