-- ==== Sys2Proof/Machine/Assembler.lean ====
section
/-! DEFINITION. The assembler of 30_encoding.md R90 and the pseudo-instructions of R91. `Source` is a line's abstract
form, its operands still plain numbers; `expand` checks every operand's range and gives the block commands; `parseLine`
reads a line of text. Spacing and the spelling of options are log 17. -/

namespace Sys2Proof.Machine

/-- One line of assembly: a block command (R90) or a pseudo-instruction (R91, 42_host_sequences.md). -/
inductive Source where
  | rstimg
  | apply (i mask value : Nat)
  | write (addr data : Nat)
  | commit (i : Nat)
  | read (i : Nat)
  | set (i mask value : Nat)
  | chiprst
  | fullrst
  | dump
  | poweron
  | poweroff
  | mute
  | unmute
  | inlevel (o : LevelOption)
  | outlevel (o : LevelOption)
  | preemph (o : PreemphOption)
  | pilot (o : SwitchOption)
  | subc (o : SwitchOption)
  | uld (o : SwitchOption)
  | cp (o : PumpOption)
  | tune (f : Nat) (rst : Bool)
  | begin (f : Nat)
  deriving DecidableEq, Repr

/-- `<i>` and `<addr>`: 0 to 15 (R90). -/
def indexOperand (n : Nat) : Option Addr := if n < 16 then some (BitVec.ofNat 4 n) else none

/-- `<mask>`, `<value>` and `<data>`: 0 to 255 (R90). -/
def byteOperand (n : Nat) : Option Byte := if n < 256 then some (BitVec.ofNat 8 n) else none

/-- The block commands a line stands for; `none` where the assembler rejects an operand out of its range (R90) or the
sequence is refused (42_host_sequences.md R170). -/
def expand (p : FacadeParams) : Source → Option (List Instr)
  | .rstimg => some [.rstimg]
  | .apply i m v => do
    let r ← indexOperand i
    let mask ← byteOperand m
    let value ← byteOperand v
    return [.apply r mask value]
  | .write a d => do
    let addr ← indexOperand a
    let data ← byteOperand d
    return [.write addr data]
  | .commit i => do return [.commit (← indexOperand i)]
  | .read i => do return [.read (← indexOperand i)]
  | .set i m v => do
    let r ← indexOperand i
    let mask ← byteOperand m
    let value ← byteOperand v
    return seqSet r mask value
  | .chiprst => some (seqChipReset p)
  | .fullrst => some seqFullReset
  | .dump => some seqDump
  | .poweron => some (seqPowerOn p)
  | .poweroff => some (seqPowerOff p)
  | .mute => some (seqMute p)
  | .unmute => some (seqUnmute p)
  | .inlevel o => some (seqInLevel p o)
  | .outlevel o => some (seqOutLevel p o)
  | .preemph o => some (seqPreemph p o)
  | .pilot o => some (seqPilot p o)
  | .subc o => some (seqSubcarrier p o)
  | .uld o => some (seqUnlockDetect p o)
  | .cp o => some (seqChargePump p o)
  | .tune f rst => seqTune p f rst
  | .begin f => seqBegin p f

/-- The value of a digit in a base up to 16. -/
def digitValue (base : Nat) (c : Char) : Option Nat :=
  let n := c.toNat
  let v :=
    if 48 ≤ n ∧ n ≤ 57 then n - 48
    else if 65 ≤ n ∧ n ≤ 70 then n - 55
    else if 97 ≤ n ∧ n ≤ 102 then n - 87
    else 16
  if v < base then some v else none

/-- A number continued by digits of a base, onto the value so far. -/
def digits (base : Nat) : Nat → List Char → Option Nat
  | acc, [] => some acc
  | acc, c :: cs =>
    match digitValue base c with
    | some v => digits base (acc * base + v) cs
    | none => none

/-- A decimal number. -/
def parseDecimal : List Char → Option Nat
  | [] => none
  | c :: cs => digits 10 0 (c :: cs)

/-- A number in decimal or with the `0x` prefix (R90). -/
def parseNumber : List Char → Option Nat
  | '0' :: 'x' :: c :: cs => digits 16 0 (c :: cs)
  | cs => parseDecimal cs

/-- `r<i>` (R90). -/
def parseRegister : List Char → Option Nat
  | 'r' :: cs => parseDecimal cs
  | _ => none

/-- A level option's name. -/
def parseLevel (cs : List Char) : Option LevelOption :=
  if cs = "low".toList then some .low
  else if cs = "medium".toList then some .medium
  else if cs = "high".toList then some .high
  else if cs = "other".toList then some .other
  else none

/-- A pre-emphasis option's name (42_host_sequences.md R161). -/
def parsePreemph (cs : List Char) : Option PreemphOption :=
  if cs = "none".toList then some .off
  else if cs = "50us".toList then some .us50
  else if cs = "75us".toList then some .us75
  else if cs = "other".toList then some .other
  else none

/-- A switch option's name. -/
def parseSwitch (cs : List Char) : Option SwitchOption :=
  if cs = "disabled".toList then some .disabled
  else if cs = "enabled".toList then some .enabled
  else if cs = "other".toList then some .other
  else none

/-- A charge-pump option's name. -/
def parsePump (cs : List Char) : Option PumpOption :=
  if cs = "low".toList then some .low
  else if cs = "high".toList then some .high
  else none

/-- The flag of TUNE: 0 or 1 (42_host_sequences.md R171). -/
def parseFlag (cs : List Char) : Option Bool :=
  match parseDecimal cs with
  | some 0 => some false
  | some 1 => some true
  | _ => none

/-- White space between the parts of a line. -/
def isBlank (c : Char) : Bool := c == ' ' || c == '\t'

/-- A part of a line without white space at its ends. -/
def trim (cs : List Char) : List Char := ((cs.dropWhile isBlank).reverse.dropWhile isBlank).reverse

/-- A list cut at every separator. -/
def splitAtChar (sep : Char) : List Char → List (List Char)
  | [] => [[]]
  | c :: cs =>
    if c = sep then [] :: splitAtChar sep cs
    else match splitAtChar sep cs with
      | [] => [[c]]
      | part :: parts => (c :: part) :: parts

/-- A line's text without its comment (R90). -/
def withoutComment (cs : List Char) : List Char := cs.takeWhile (· != ';')

/-- A line's mnemonic with its operands. -/
def parseParts (mnemonic : List Char) (operands : List (List Char)) : Option Source :=
  match operands with
  | [] =>
    if mnemonic = "RSTIMG".toList then some .rstimg
    else if mnemonic = "CHIPRST".toList then some .chiprst
    else if mnemonic = "FULLRST".toList then some .fullrst
    else if mnemonic = "DUMP".toList then some .dump
    else if mnemonic = "POWERON".toList then some .poweron
    else if mnemonic = "POWEROFF".toList then some .poweroff
    else if mnemonic = "MUTE".toList then some .mute
    else if mnemonic = "UNMUTE".toList then some .unmute
    else none
  | [x] =>
    if mnemonic = "COMMIT".toList then (parseRegister x).map .commit
    else if mnemonic = "READ".toList then (parseRegister x).map .read
    else if mnemonic = "INLEVEL".toList then (parseLevel x).map .inlevel
    else if mnemonic = "OUTLEVEL".toList then (parseLevel x).map .outlevel
    else if mnemonic = "PREEMPH".toList then (parsePreemph x).map .preemph
    else if mnemonic = "PILOT".toList then (parseSwitch x).map .pilot
    else if mnemonic = "SUBC".toList then (parseSwitch x).map .subc
    else if mnemonic = "ULD".toList then (parseSwitch x).map .uld
    else if mnemonic = "CP".toList then (parsePump x).map .cp
    else if mnemonic = "BEGIN".toList then (parseDecimal x).map .begin
    else none
  | [x, y] =>
    if mnemonic = "WRITE".toList then do return .write (← parseDecimal x) (← parseNumber y)
    else if mnemonic = "TUNE".toList then do return .tune (← parseDecimal x) (← parseFlag y)
    else none
  | [x, y, z] =>
    if mnemonic = "APPLY".toList then do return .apply (← parseRegister x) (← parseNumber y) (← parseNumber z)
    else if mnemonic = "SET".toList then do return .set (← parseRegister x) (← parseNumber y) (← parseNumber z)
    else none
  | _ => none

/-- One line of text: `none` if the assembler rejects it, `some none` if it holds no command (R90). -/
def parseLine (line : List Char) : Option (Option Source) :=
  match trim (withoutComment line) with
  | [] => some none
  | c :: cs =>
    let text := c :: cs
    let rest := trim (text.dropWhile fun c => !isBlank c)
    let operands := if rest = [] then [] else (splitAtChar ',' rest).map trim
    (parseParts (text.takeWhile fun c => !isBlank c) operands).map some

/-- The block commands of one line of text. -/
def assembleLine (p : FacadeParams) (line : List Char) : Option (List Instr) :=
  match parseLine line with
  | none => none
  | some none => some []
  | some (some src) => expand p src

/-- The block commands of lines of text, in order; `none` if any line is rejected. -/
def assembleLines (p : FacadeParams) : List (List Char) → Option (List Instr)
  | [] => some []
  | line :: lines => do return (← assembleLine p line) ++ (← assembleLines p lines)

/-- The block commands of a text, one command a line (R90). -/
def assemble (p : FacadeParams) (text : String) : Option (List Instr) :=
  assembleLines p (splitAtChar '\n' text.toList)

end Sys2Proof.Machine
end

