-- ==== Sys2Proof/Machine/Instances.lean ====
section
/-! DEFINITION. Several block instances side by side (60_exceptions.md R215): each has its own image, lines, fault record
and configuration, and none sees another. -/

namespace Sys2Proof.Machine

/-- One block instance: its state with the timing its commands read, and the rest of its configuration
(10_state.md R47). Log 18. -/
structure Instance where
  /-- The three pin identifiers; no rule gives them a value (10_state.md R47, 92_eei_decisions.md D25). -/
  pins : PerLine Nat
  /-- The field map and the chip-reset transaction that its host's sequences use (42_host_sequences.md R152, R166). -/
  params : FacadeParams
  state : State
  deriving DecidableEq, Repr

/-- The block commands that a line of assembly stands for on this instance, with its own parameters. -/
def Instance.commands (x : Instance) (src : Source) : Option (List Instr) := expand x.params src

/-- One step of the k-th instance; the others are not there for it (60_exceptions.md R215). -/
def stepInstance {n : Nat} (k : Fin n) (xs : Vector Instance n) : Host.Outcome (Vector Instance n) Fault Refusal :=
  match step xs[k].state with
  | .next t => .next (xs.set k { xs[k] with state := t })
  | .fault f => .fault f
  | .refused q => .refused q

/-- No two instances have the same name, so no two draw the same values by name (60_exceptions.md R215; log 4). -/
def NamedApart {n : Nat} (xs : Vector Instance n) : Prop :=
  ∀ i j : Fin n, xs[i].state.config.instanceId = xs[j].state.config.instanceId → i = j

end Sys2Proof.Machine
end

