-- ==== Sys2Proof/Machine/Observe.lean ====
section
/-! DEFINITION. What can be observed of the block (00_scope.md R15): the READ results, the trace, the write log derived
from it (41_bus_transport.md R128), the edges and the least duration of a trace, and the fault record. -/

namespace Sys2Proof.Machine

/-- `FRAME(a, d)` as the pseudocode of 41_bus_transport.md R120 lists it, step by step. -/
def frameListing (c : BlockConfig) (a : Addr) (d : Byte) : List Event :=
  ([.drive .latch false] : List Event) ++
  (List.range 12).flatMap (fun k =>
    [.drive .clk false, .drive .data ((frameWord a d).getLsbD k), .drive .clk true]) ++
  [.wait (tSettle c), .drive .latch true, .wait (tLatchHigh c), .drive .latch false, .drive .clk false]

/-- The levels after an event. -/
def levelsStep (p : PerLine Bool) : Event → PerLine Bool
  | .drive l b => p.put l b
  | .wait _ => p
  | .readData _ _ => p

/-- The levels after a list of events. -/
def levelsAfter (p : PerLine Bool) (es : List Event) : PerLine Bool := es.foldl levelsStep p

/-- How often a line goes from the level `!b` to `b`: with `b` true its rising edges, with `b` false its falling edges
(41_bus_transport.md R124). -/
def edges (l : Line) (b : Bool) : PerLine Bool → List Event → Nat
  | _, [] => 0
  | p, e :: es =>
    (if p.get l ≠ b ∧ (levelsStep p e).get l = b then 1 else 0) + edges l b (levelsStep p e) es

/-- The DATA levels at the rising edges of CLK, in order (41_bus_transport.md R122). -/
def sampled : PerLine Bool → List Event → List Bool
  | _, [] => []
  | p, e :: es =>
    (if p.clk = false ∧ (levelsStep p e).clk = true then [p.data] else []) ++ sampled (levelsStep p e) es

/-- The number whose bits are given, least significant first (20_memory.md R62). -/
def natOfBits : List Bool → Nat
  | [] => 0
  | b :: bs => b.toNat + 2 * natOfBits bs

/-- The (a, d) pair of twelve slots: four address bits, then eight data bits (30_encoding.md R81); nothing of any other
number of bits, since a frame has twelve. -/
def pairOfSlots (bits : List Bool) : List (Addr × Byte) :=
  if bits.length = 12 then
    [(BitVec.ofNat 4 (natOfBits (bits.take 4)), BitVec.ofNat 8 (natOfBits (bits.drop 4)))]
  else []

/-- What a reader of the lines has seen: the levels, the bits sampled since the last latch pulse, the pairs so far. -/
structure LineReader where
  levels : PerLine Bool
  bits : List Bool
  log : List (Addr × Byte)
  deriving DecidableEq, Repr

/-- Before the first event all lines are low (70_reset_and_hazards.md R231). -/
def readerStart : LineReader := ⟨⟨false, false, false⟩, [], []⟩

/-- One event seen: a rising CLK samples DATA, a rising LATCH closes the frame (30_encoding.md R81). That the log grows
at the rising edge of LATCH says nothing of the peripheral; DESIGN CHOICE, log 13. -/
def readerStep (r : LineReader) (e : Event) : LineReader :=
  let next := levelsStep r.levels e
  if r.levels.latch = false ∧ next.latch = true then ⟨next, [], r.log ++ pairOfSlots r.bits⟩
  else if r.levels.clk = false ∧ next.clk = true then ⟨next, r.bits ++ [r.levels.data], r.log⟩
  else { r with levels := next }

/-- A whole trace seen, from block reset. -/
def readTrace (es : List Event) : LineReader := es.foldl readerStep readerStart

/-- The peripheral write log `writes(trace)` (41_bus_transport.md R128). -/
def writes (es : List Event) : List (Addr × Byte) := (readTrace es).log

/-- The READ results of a trace, in order (00_scope.md R15). -/
def readResults (es : List Event) : List (CellIndex × Byte) :=
  es.filterMap fun
    | .readData i v => some (i, v)
    | .drive _ _ => none
    | .wait _ => none

/-- The least time between two consecutive events: `T_EDGE_MIN`, unless one of them is a wait, which brings its own
time (41_bus_transport.md R123; log 7). -/
def gap (c : BlockConfig) : Event → Event → Nat
  | .wait _, _ => 0
  | .drive _ _, .wait _ | .readData _ _, .wait _ => 0
  | .drive _ _, .drive _ _ | .drive _ _, .readData _ _ => c.edgeMin
  | .readData _ _, .drive _ _ | .readData _ _, .readData _ _ => c.edgeMin

/-- The time an event itself takes at least: a wait's (00_scope.md R11). -/
def waitTime : Event → Nat
  | .wait n => n
  | .drive _ _ => 0
  | .readData _ _ => 0

/-- The least duration of a list of events, in time units (41_bus_transport.md R123, 70_reset_and_hazards.md R245). -/
def minDuration (c : BlockConfig) : List Event → Nat
  | [] => 0
  | [e] => waitTime e
  | e :: e' :: es => waitTime e + gap c e e' + minDuration c (e' :: es)

/-- Everything a claim can observe of a state (00_scope.md R15). -/
structure Observation where
  readResults : List (CellIndex × Byte)
  trace : List Event
  writeLog : List (Addr × Byte)
  fault : Option FaultRecord
  deriving DecidableEq, Repr

/-- The observation of a state (00_scope.md R15, 92_eei_decisions.md D22). -/
def observe (s : State) : Observation := ⟨readResults s.trace, s.trace, writes s.trace, s.fault⟩

end Sys2Proof.Machine
end

