-- ==== Sys2Proof/Safety.lean ====
section
/-! DEFINITION. The terms claims use: a host sequence issued to the block and run by `step`, the rest condition of the
block, and a run that raises no fault. -/

namespace Sys2Proof.Machine

/-- The inputs of a host that issues commands in order (42_host_sequences.md R150, 30_encoding.md R84). -/
def issued (is : List Instr) : List Input := is.map fun i => .command (encode i)

/-- The host is about to issue a sequence, before whatever else is waiting. -/
def State.enqueue (s : State) (is : List Instr) : State := { s with inputs := issued is ++ s.inputs }

/-- A host sequence issued and run, one step a command (42_host_sequences.md R150). -/
def runCommands (is : List Instr) (s : State) : Host.Outcome State Fault Refusal :=
  Host.Core.run Sys2Proof.core is.length (s.enqueue is)

/-- The block accepts a command: no fault is recorded and the sequencer is idle (10_state.md R50). -/
def State.Ready (s : State) : Prop := s.fault = none ∧ s.phase = .idle

/-- The rest condition between commands: the sequencer is IDLE (10_state.md R33), CLK and LATCH are low (R44), the pins
are outputs (70_reset_and_hazards.md R231), the line levels are those the trace leaves, and the trace holds no frame
begun and not latched (20_memory.md R72). -/
structure State.AtRest (s : State) : Prop where
  idle : s.phase = .idle
  clkLow : s.levels.clk = false
  latchLow : s.levels.latch = false
  outputs : s.dirs = ⟨.output, .output, .output⟩
  traceLevels : (readTrace s.trace).levels = s.levels
  wholeFrames : (readTrace s.trace).bits = []

/-- A sequence of commands runs to its end and raises no fault. -/
def RunsSafely (is : List Instr) (s : State) : Prop := ∃ t, runCommands is s = .next t ∧ t.fault = none

/-- The events es are the 42 of `FRAME(a, d)` of a block with configuration c, index by index (41_bus_transport.md
R121), slot k carrying a[k] for k below 4 and d[k - 4] from there on (30_encoding.md R81). -/
structure IsFrame (c : BlockConfig) (a : Addr) (d : Byte) (es : List Event) : Prop where
  count : es.length = 42
  first : es[0]? = some (.drive .latch false)
  clockLow : ∀ k < 12, es[1 + 3 * k]? = some (.drive .clk false)
  dataAddr : ∀ k < 4, es[2 + 3 * k]? = some (.drive .data (a.getLsbD k))
  dataByte : ∀ k < 8, es[2 + 3 * (4 + k)]? = some (.drive .data (d.getLsbD k))
  clockHigh : ∀ k < 12, es[3 + 3 * k]? = some (.drive .clk true)
  settle : es[37]? = some (.wait (tSettle c))
  latchHigh : es[38]? = some (.drive .latch true)
  hold : es[39]? = some (.wait (tLatchHigh c))
  latchLow : es[40]? = some (.drive .latch false)
  clockRest : es[41]? = some (.drive .clk false)

/-- Two states that differ at most in what the reserved cells 5 and 7 hold. -/
def SameButReserved (s t : State) : Prop :=
  t = { s with img := t.img } ∧ ∀ i : CellIndex, i ≠ 5 → i ≠ 7 → t.readCell i = s.readCell i

/-- One row of `setterTable`: a setter with an option, the cell it sends, and the mask and value of its update; no update
for an unrecognised option. -/
structure SetterRow where
  commands : List Instr
  cell : Addr
  update : Option (Byte × Byte)
  deriving DecidableEq, Repr

/-- Every setter with every option, as 42_host_sequences.md R155 to R165 list them: cell, mask, value. -/
def setterTable (p : FacadeParams) : List SetterRow :=
  let f := p.fields
  [⟨seqPowerOn p, 0, some (f.pwrMask, f.pwrOn)⟩, ⟨seqPowerOff p, 0, some (f.pwrMask, f.pwrOff)⟩,
   ⟨seqMute p, 0, some (f.muteMask, f.muteOn)⟩, ⟨seqUnmute p, 0, some (f.muteMask, f.muteOff)⟩,
   ⟨seqInLevel p .low, 0, some (f.inMask, f.inLow)⟩, ⟨seqInLevel p .medium, 0, some (f.inMask, f.inMed)⟩,
   ⟨seqInLevel p .high, 0, some (f.inMask, f.inHigh)⟩, ⟨seqInLevel p .other, 0, none⟩,
   ⟨seqOutLevel p .low, 2, some (f.outMask, f.outLow)⟩, ⟨seqOutLevel p .medium, 2, some (f.outMask, f.outMed)⟩,
   ⟨seqOutLevel p .high, 2, some (f.outMask, f.outHigh)⟩, ⟨seqOutLevel p .other, 2, none⟩,
   ⟨seqPreemph p .off, 0, some (f.peMask, f.peNone)⟩, ⟨seqPreemph p .us50, 0, some (f.peMask, f.pe50)⟩,
   ⟨seqPreemph p .us75, 0, some (f.peMask, f.pe75)⟩, ⟨seqPreemph p .other, 0, none⟩,
   ⟨seqPilot p .disabled, f.pilotReg, some (f.pilotMask, f.pilotOff)⟩,
   ⟨seqPilot p .enabled, f.pilotReg, some (f.pilotMask, f.pilotOn)⟩, ⟨seqPilot p .other, f.pilotReg, none⟩,
   ⟨seqSubcarrier p .disabled, f.subcReg, some (f.subcMask, f.subcOff)⟩,
   ⟨seqSubcarrier p .enabled, f.subcReg, some (f.subcMask, f.subcOn)⟩, ⟨seqSubcarrier p .other, f.subcReg, none⟩,
   ⟨seqUnlockDetect p .disabled, 2, some (f.uldMask, f.uldOff)⟩,
   ⟨seqUnlockDetect p .enabled, 2, some (f.uldMask, f.uldOn)⟩, ⟨seqUnlockDetect p .other, 2, none⟩,
   ⟨seqChargePump p .low, 6, some (f.cpMask, f.cpLow)⟩, ⟨seqChargePump p .high, 6, some (f.cpMask, f.cpHigh)⟩]

/-- The commands of every setter with every option. -/
def setters (p : FacadeParams) : List (List Instr) := (setterTable p).map fun row => row.commands

/-- The union of the masks of the fields BEGIN writes to cell R, for R = 1 or 2 (42_host_sequences.md R175, U_R). -/
def beginMask (f : FieldMap) (r : Addr) : Byte :=
  (if r = 2 then f.outMask ||| f.uldMask else 0) |||
  (if f.pilotReg = r then f.pilotMask else 0) ||| (if f.subcReg = r then f.subcMask else 0)

/-- The OR of those fields' final values (42_host_sequences.md R175, V_R). -/
def beginValue (f : FieldMap) (r : Addr) : Byte :=
  (if r = 2 then f.outMed ||| f.uldOn else 0) |||
  (if f.pilotReg = r then f.pilotOn else 0) ||| (if f.subcReg = r then f.subcOff else 0)

end Sys2Proof.Machine
end

