-- ==== Sys2Proof/WellFormed.lean ====
section
/-! DEFINITION. What a host must respect. `Instr.wellFormed` is the confinement and index obligation of
70_reset_and_hazards.md R239: a command the block runs without raising a fault. (The decoder accepts the others too,
and the block answers them with a fault.) `FieldMap.wellFormed` is the list of constraints of 42_host_sequences.md R152,
one named check each. -/

namespace Sys2Proof

/-- A command that meets its preconditions (70_reset_and_hazards.md R239, 40_register_image.md R103, R104, R106). -/
def Instr.wellFormed : Instr → Bool
  | .rstimg => true
  | .apply r m v => [0, 1, 2, 3, 4, 6, 8].contains r && v &&& ~~~m == 0
  | .write _ _ => true
  | .commit r => [0, 1, 2, 3, 4, 6, 8].contains r
  | .read r => r.toNat ≤ 8

/-- How many bits a mask selects. -/
def maskWidth (m : Byte) : Nat := (List.finRange 8).countP (fun k => m.getLsbD k)

/-- A value has no bit outside its mask. -/
def confined (m v : Byte) : Bool := v &&& ~~~m == 0

/-- Every facade field with its cell and its mask (42_host_sequences.md R152, first table). -/
def FieldMap.placed (f : FieldMap) : List (Addr × Byte) :=
  [(0, f.pwrMask), (0, f.muteMask), (0, f.inMask), (0, f.peMask), (2, f.outMask), (2, f.uldMask),
   (f.pilotReg, f.pilotMask), (f.subcReg, f.subcMask), (6, f.cpMask)]

/-- Every option value with the mask of its field. -/
def FieldMap.values (f : FieldMap) : List (Byte × Byte) :=
  [(f.pwrMask, f.pwrOn), (f.pwrMask, f.pwrOff), (f.muteMask, f.muteOn), (f.muteMask, f.muteOff),
   (f.inMask, f.inLow), (f.inMask, f.inMed), (f.inMask, f.inHigh),
   (f.peMask, f.peNone), (f.peMask, f.pe50), (f.peMask, f.pe75),
   (f.outMask, f.outLow), (f.outMask, f.outMed), (f.outMask, f.outHigh),
   (f.uldMask, f.uldOff), (f.uldMask, f.uldOn), (f.pilotMask, f.pilotOff), (f.pilotMask, f.pilotOn),
   (f.subcMask, f.subcOff), (f.subcMask, f.subcOn), (f.cpMask, f.cpLow), (f.cpMask, f.cpHigh)]

/-- R152 (a): every value is confined to its field's mask. -/
def FieldMap.valuesConfined (f : FieldMap) : Bool := f.values.all (fun mv => confined mv.1 mv.2)

/-- R152 (b): the masks of different fields in the same cell are disjoint. -/
def FieldMap.masksDisjoint (f : FieldMap) : Bool :=
  decide (f.placed.Pairwise (fun p q => p.1 = q.1 → p.2 &&& q.2 = 0))

/-- R152 (c): the three values of INLEVEL are distinct, and so are the three of OUTLEVEL. -/
def FieldMap.levelsDistinct (f : FieldMap) : Bool :=
  decide ([f.inLow, f.inMed, f.inHigh].Nodup) && decide ([f.outLow, f.outMed, f.outHigh].Nodup)

/-- R152 (d): `PWR_MASK` covers the power-enable and the crystal bit, and `PWR_ON` sets both. -/
def FieldMap.powerCovers (f : FieldMap) : Bool :=
  f.pwrMask.getLsbD f.pwrEnableBit && f.pwrMask.getLsbD f.crystalBit &&
  f.pwrOn.getLsbD f.pwrEnableBit && f.pwrOn.getLsbD f.crystalBit

/-- R152 (e): `PE_50` and `PE_75` have the enable bit set and differ in the region bit; `PE_NONE` has it clear. -/
def FieldMap.preemphCoded (f : FieldMap) : Bool :=
  f.pe50.getLsbD f.peEnableBit && f.pe75.getLsbD f.peEnableBit && !f.peNone.getLsbD f.peEnableBit &&
  (f.pe50.getLsbD f.peRegionBit != f.pe75.getLsbD f.peRegionBit)

/-- R152 (f): `CP_LOW` and `CP_HIGH` agree on every bit of the fixed secondary sub-field. -/
def FieldMap.secondaryFixed (f : FieldMap) : Bool :=
  f.cpLow &&& f.cpSecondary == f.cpHigh &&& f.cpSecondary

/-- R152 (g): no field mask meets bits [1:0] of cell 8, or cells 3 and 4. -/
def FieldMap.avoidsTuning (f : FieldMap) : Bool :=
  f.placed.all (fun p => (p.1 != 8 || p.2 &&& 0x03 == 0) && p.1 != 3 && p.1 != 4)

/-- R152, second table, and R151: the widths of the masks, `CP_MASK` as its two parts, `PE_MASK` as its two bits. -/
def FieldMap.widthsRight (f : FieldMap) : Bool :=
  maskWidth f.inMask == 2 && maskWidth f.outMask == 2 && maskWidth f.uldMask == 1 &&
  maskWidth f.pilotMask == 1 && maskWidth f.subcMask == 1 &&
  maskWidth f.peMask == 2 && f.peMask.getLsbD f.peEnableBit && f.peMask.getLsbD f.peRegionBit &&
  maskWidth f.cpField == 5 && f.cpField &&& f.cpSecondary == 0 && f.cpMask == f.cpField ||| f.cpSecondary

/-- R152: `PILOT_REG` and `SUBC_REG` are 1 or 2. -/
def FieldMap.registersRight (f : FieldMap) : Bool :=
  (f.pilotReg == 1 || f.pilotReg == 2) && (f.subcReg == 1 || f.subcReg == 2)

/-- Every constraint of 42_host_sequences.md R152. -/
def FieldMap.wellFormed (f : FieldMap) : Bool :=
  f.valuesConfined && f.masksDisjoint && f.levelsDistinct && f.powerCovers && f.preemphCoded &&
  f.secondaryFixed && f.avoidsTuning && f.widthsRight && f.registersRight

end Sys2Proof
end

