-- ==== Sys2Proof/Certificates/Slice0/Obligations.lean ====
section
/-! DEFINITION. The statements for the provers. In all of them `r.toNat = i.val` says that the 4-bit index r names cell
i, and `t = { s with img := t.img }` that nothing but the image differs. -/

open Sys2Proof Sys2Proof.Machine

/-! ### Encoding -/

/-- Decoding and encoding are inverse: a command's word decodes to it, and a word that decodes to a command is that
command's word (30_encoding.md R83, R85, R87). -/
def Obligations.DecodeAndEncodeAgree : Prop :=
  (∀ i, decode (encode i) = some i) ∧ (∀ w i, decode w = some i → encode i = w)

/-- 30_encoding.md R89: the encoded examples. -/
def Obligations.ExampleWordsDecode : Prop :=
  encode .rstimg = 0x10000000 ∧ encode (.apply 8 0x03 0x02) = 0x28000302 ∧ encode (.commit 8) = 0x48000000 ∧
  encode (.write 14 0x05) = 0x3E000005 ∧ encode (.read 3) = 0x53000000 ∧
  decode 0x10000000 = some .rstimg ∧ decode 0x28000302 = some (.apply 8 0x03 0x02) ∧
  decode 0x48000000 = some (.commit 8) ∧ decode 0x3E000005 = some (.write 14 0x05) ∧
  decode 0x53000000 = some (.read 3)

/-- 30_encoding.md R83, R86: a decoded operand is the unsigned value of its bits of the word. -/
def Obligations.OperandsAreBitSlices : Prop :=
  ∀ w : Word,
    (∀ r m v, decode w = some (.apply r m v) →
      r.toNat = w.toNat / 2 ^ 24 % 16 ∧ m.toNat = w.toNat / 2 ^ 8 % 256 ∧ v.toNat = w.toNat % 256) ∧
    (∀ a d, decode w = some (.write a d) → a.toNat = w.toNat / 2 ^ 24 % 16 ∧ d.toNat = w.toNat % 256) ∧
    (∀ r, decode w = some (.commit r) ∨ decode w = some (.read r) → r.toNat = w.toNat / 2 ^ 24 % 16)

/-- 60_exceptions.md R203: a word raises IllegalCommand exactly when one of the listed conditions holds; any other
word is a command, which is executed. -/
def Obligations.IllegalWordsAreTheListedOnes : Prop :=
  ∀ (s : State) (w : Word) (rest : List Input), s.inputs = .command w :: rest → s.Ready →
    let op := w.toNat / 2 ^ 28
    let illegal := op = 0 ∨ 6 ≤ op ∨ (op = 1 ∧ w.toNat % 2 ^ 28 ≠ 0) ∨ (op = 2 ∧ w.toNat / 2 ^ 16 % 2 ^ 8 ≠ 0) ∨
      (op = 3 ∧ w.toNat / 2 ^ 8 % 2 ^ 16 ≠ 0) ∨ ((op = 4 ∨ op = 5) ∧ w.toNat % 2 ^ 24 ≠ 0)
    (illegal → decode w = none ∧
      step s = .next { s with inputs := rest, fault := some ⟨.illegalCommand, w⟩ }) ∧
    (¬illegal → ∃ i, decode w = some i ∧ step s = exec i { s with inputs := rest })

/-- 30_encoding.md R81: the twelve slots of `FRAME(a, d)`, read least significant bit first, four for the address and
eight for the payload, give back a and d: no bit of a frame is dropped or moved. -/
def Obligations.FrameSlotsCarryAddressAndPayload : Prop :=
  ∀ (a : Addr) (d : Byte), (frameWord a d).toNat = d.toNat * 16 + a.toNat ∧
    pairOfSlots ((List.range 12).map fun k => (frameWord a d).getLsbD k) = [(a, d)]

/-! ### The step -/

/-- 30_encoding.md R84: an accepted command word is decoded and executed, to completion, before the next input. -/
def Obligations.StepRunsTheDecodedCommand : Prop :=
  ∀ (s : State) (w : Word) (rest : List Input) (i : Instr),
    s.inputs = .command w :: rest → s.Ready → decode w = some i →
      step s = exec i { s with inputs := rest } ∧
      ∃ t, step s = .next t ∧ t.inputs = rest ∧ t.phase = .idle

/-- An idle block that no input waits for stays as it is. The model's choice of what `step` answers there is log 1. -/
def Obligations.IdleBlockStays : Prop :=
  ∀ s : State, s.inputs = [] → s.Ready → step s = .next s

/-- 60_exceptions.md R215: a second host's command is refused, whatever the state. That such a command is an input of
the model is log 11. -/
def Obligations.SecondHostIsRefused : Prop :=
  ∀ (s : State) (w : Word) (rest : List Input), s.inputs = .secondHost w :: rest → step s = .refused .secondHost

/-! ### Reset -/

/-- 70_reset_and_hazards.md R230: block reset, from any state, sets every piece of state to its reset value, and a
later READ of a reserved cell is a draw. -/
def Obligations.BlockResetSetsTheResetValues : Prop :=
  ∀ (s : State) (rest : List Input), s.inputs = .blockReset :: rest →
    ∃ t, step s = .next t ∧
      t.dirs = ⟨.output, .output, .output⟩ ∧ t.levels = ⟨false, false, false⟩ ∧
      t.readCell 0 = 0x00 ∧ t.readCell 1 = 0xB4 ∧ t.readCell 2 = 0x05 ∧ t.readCell 3 = 0x8A ∧
      t.readCell 4 = 0x2E ∧ t.readCell 6 = 0x1A ∧ t.readCell 8 = 0x1B ∧
      t.fault = none ∧ t.trace = [] ∧ t.phase = .idle ∧
      (∀ r : Addr, ∀ i : CellIndex, r.toNat = i.val → i = 5 ∨ i = 7 →
        ∃ u n, exec (.read r) t = .next u ∧ u.trace = [.readData i (Config.draw s.config.instanceId n)])

/-- Block reset does not take away the inputs still to come, and it does not rewind the draws. The model's choice:
log 12. -/
def Obligations.BlockResetKeepsInputsAndDraws : Prop :=
  ∀ (s : State) (rest : List Input), s.inputs = .blockReset :: rest →
    ∃ t, step s = .next t ∧ t.inputs = rest ∧ t.draws = s.draws

/-- 10_state.md R51 and 70_reset_and_hazards.md R233: with any configuration the state after reset has the values the
spec states, is at rest, and accepts a command. `State.reset` is the one with the defaults of 00_scope.md R7. -/
def Obligations.ResetStateIsReadyAndAtRest : Prop :=
  (∀ c : BlockConfig,
    (State.resetWith c).AtRest ∧ (State.resetWith c).Ready ∧ (State.resetWith c).trace = [] ∧
    (State.resetWith c).levels = ⟨false, false, false⟩ ∧ (State.resetWith c).config = c ∧
    (∀ i : CellIndex, i ≠ 5 → i ≠ 7 → defaultCell i = some ((State.resetWith c).readCell i)) ∧
    (∀ w rest, ∃ t, step { State.resetWith c with inputs := .command w :: rest } = .next t)) ∧
  State.reset = State.resetWith .defaults ∧
  tSettle .defaults = 1 ∧ tLatchHigh .defaults = 4 ∧ BlockConfig.defaults.edgeMin = 0

/-- 10_state.md R33, R44, 70_reset_and_hazards.md R231, 20_memory.md R72: every step keeps the rest condition. Between
commands the sequencer is IDLE, CLK and LATCH are low, the pins are outputs, the levels are those the trace leaves, and
no frame is left unfinished. -/
def Obligations.StepKeepsTheRestCondition : Prop :=
  ∀ s t : State, s.AtRest → step s = .next t → t.AtRest

/-- 10_state.md R43: the default image holds the tuning word of 97,300,000 Hz, but band 3, and the tuning rule gives
that frequency band 2, so the default image is not the one TUNE leaves. -/
def Obligations.DefaultImageTunesButSelectsAnotherBand : Prop :=
  (State.reset.readCell 4).toNat % 64 * 256 + (State.reset.readCell 3).toNat = 11914 ∧
  tuningWord 97300000 = 11914 ∧ State.reset.readCell 8 &&& 0x03 = 3 ∧ band 97300000 = 2 ∧
  ∀ (c : BlockConfig) (p : FacadeParams) (rst : Bool) (t : State),
    runCommands (tuneSteps p 97300000 rst) (State.resetWith c) = .next t →
    p.fields.wellFormed = true → t.img ≠ (State.resetWith c).img

/-! ### The Register Image commands -/

/-- 40_register_image.md R101. -/
def Obligations.RstimgSetsTheDefaults : Prop :=
  encode .rstimg = 0x10000000 ∧
  (∀ w : Word, w.toNat / 2 ^ 28 = 1 → w ≠ 0x10000000 → decode w = none) ∧
  ∀ s : State, ∃ t, exec .rstimg s = .next t ∧
    t.readCell 0 = 0x00 ∧ t.readCell 1 = 0xB4 ∧ t.readCell 2 = 0x05 ∧ t.readCell 3 = 0x8A ∧
    t.readCell 4 = 0x2E ∧ t.readCell 6 = 0x1A ∧ t.readCell 8 = 0x1B ∧
    t.readCell 5 = s.readCell 5 ∧ t.readCell 7 = s.readCell 7 ∧
    t = { s with img := t.img } ∧
    exec .rstimg t = .next t ∧
    (∃ u, exec (.read 2) t = .next u ∧ u.trace = t.trace ++ [.readData 2 0x05])

/-- 40_register_image.md R104: APPLY on every index, mask and value. -/
def Obligations.ApplyUpdatesTheMaskedBits : Prop :=
  (∀ r m v, (encode (.apply r m v)).toNat = 2 * 2 ^ 28 + r.toNat * 2 ^ 24 + m.toNat * 2 ^ 8 + v.toNat) ∧
  (∀ w : Word, w.toNat / 2 ^ 28 = 2 → w.toNat / 2 ^ 16 % 2 ^ 8 ≠ 0 → decode w = none) ∧
  (∀ (r : Addr) (m v : Byte) (s : State), r.toNat = 5 ∨ r.toNat = 7 ∨ 9 ≤ r.toNat →
    exec (.apply r m v) s = .next { s with fault := some ⟨.badIndex, encode (.apply r m v)⟩ }) ∧
  (∀ (r : Addr) (m v : Byte) (s : State) (i : CellIndex), r.toNat = i.val → i ≠ 5 → i ≠ 7 → v &&& ~~~m ≠ 0 →
    exec (.apply r m v) s = .next { s with fault := some ⟨.valueOutsideMask, encode (.apply r m v)⟩ }) ∧
  (∀ (r : Addr) (m v : Byte) (s : State) (i : CellIndex), r.toNat = i.val → i ≠ 5 → i ≠ 7 → v &&& ~~~m = 0 →
    ∃ t, exec (.apply r m v) s = .next t ∧ t = { s with img := t.img } ∧
      t.readCell i = (s.readCell i &&& ~~~m) ||| v ∧
      (∀ j : CellIndex, j ≠ i → t.readCell j = s.readCell j) ∧
      (∀ k < 8, (t.readCell i).getLsbD k = if m.getLsbD k then v.getLsbD k else (s.readCell i).getLsbD k) ∧
      (m = 0x00 → v = 0x00 ∧ t.readCell i = s.readCell i) ∧ (m = 0xFF → t.readCell i = v) ∧
      (m = v → t.readCell i &&& m = m) ∧ (v = 0 → t.readCell i &&& m = 0)) ∧
  (∀ s : State, s.readCell 8 = 0x1B → ∃ t, exec (.apply 8 0x03 0x02) s = .next t ∧ t.readCell 8 = 0x1A)

/-- 40_register_image.md R105: the laws of APPLY, for commands that do not fault: idempotence, commutation on disjoint
masks and on different cells, and the last writer wins. -/
def Obligations.ApplyLaws : Prop :=
  ∀ (s : State) (r₁ r₂ : Addr) (m₁ v₁ m₂ v₂ : Byte), s.Ready →
    (Instr.apply r₁ m₁ v₁).wellFormed = true → (Instr.apply r₂ m₂ v₂).wellFormed = true →
    runCommands [.apply r₁ m₁ v₁, .apply r₁ m₁ v₁] s = runCommands [.apply r₁ m₁ v₁] s ∧
    (r₁ = r₂ → m₁ &&& m₂ = 0 →
      runCommands [.apply r₁ m₁ v₁, .apply r₂ m₂ v₂] s = runCommands [.apply r₂ m₂ v₂, .apply r₁ m₁ v₁] s) ∧
    (r₁ ≠ r₂ →
      runCommands [.apply r₁ m₁ v₁, .apply r₂ m₂ v₂] s = runCommands [.apply r₂ m₂ v₂, .apply r₁ m₁ v₁] s) ∧
    (r₁ = r₂ → ∃ t, runCommands [.apply r₁ m₁ v₁, .apply r₂ m₂ v₂] s = .next t ∧ t = { s with img := t.img } ∧
      ∀ i : CellIndex, r₁.toNat = i.val → ∀ k < 8,
        (t.readCell i).getLsbD k =
          if m₂.getLsbD k then v₂.getLsbD k
          else if m₁.getLsbD k then v₁.getLsbD k
          else (s.readCell i).getLsbD k)

/-- 40_register_image.md R106: READ on every index. A used cell's value is reported; a reserved cell's report is a
draw (for every value of it: `Config.draw` has no body). Apart from the trace the state stays, but for the model's own
count of draws (log 4). -/
def Obligations.ReadReportsTheCell : Prop :=
  (∀ r, (encode (.read r)).toNat = 5 * 2 ^ 28 + r.toNat * 2 ^ 24) ∧
  (∀ w : Word, w.toNat / 2 ^ 28 = 5 → w.toNat % 2 ^ 24 ≠ 0 → decode w = none) ∧
  (∀ (r : Addr) (s : State), 9 ≤ r.toNat →
    exec (.read r) s = .next { s with fault := some ⟨.badIndex, encode (.read r)⟩ }) ∧
  (∀ (r : Addr) (s : State) (i : CellIndex), r.toNat = i.val → i ≠ 5 → i ≠ 7 →
    exec (.read r) s = .next { s with trace := s.trace ++ [.readData i (s.readCell i)] }) ∧
  (∀ (r : Addr) (s : State) (i : CellIndex), r.toNat = i.val → i = 5 ∨ i = 7 →
    ∃ t n, exec (.read r) s = .next t ∧
      t = { s with trace := s.trace ++ [.readData i (Config.draw s.config.instanceId n)], draws := t.draws }) ∧
  (∀ s t : State, exec .rstimg s = .next t →
    ∃ u, exec (.read 6) t = .next u ∧ u.trace = t.trace ++ [.readData 6 0x1A])

/-- A READ of a reserved cell uses the next draw, and the next one after it is another. That a draw is the constant
`Config.draw` applied to the instance's name and a count that every draw advances is the model's choice: log 4. -/
def Obligations.ReservedReadsAreFreshDraws : Prop :=
  ∀ (r : Addr) (s : State) (i : CellIndex), r.toNat = i.val → i = 5 ∨ i = 7 →
    exec (.read r) s =
      .next { s with
        trace := s.trace ++ [.readData i (Config.draw s.config.instanceId s.draws)], draws := s.draws + 1 }

/-- 10_state.md R42: any byte can be put into any used cell, read back and sent. -/
def Obligations.EveryBitOfAUsedCellCanBeWritten : Prop :=
  ∀ (r : Addr) (v : Byte) (s : State) (i : CellIndex), r.toNat = i.val → i ≠ 5 → i ≠ 7 →
    ∃ t, exec (.apply r 0xFF v) s = .next t ∧ t.readCell i = v ∧
      (∃ u, exec (.read r) t = .next u ∧ u.trace = s.trace ++ [.readData i v]) ∧
      (∃ u es, exec (.commit r) t = .next u ∧ IsFrame s.config r v es ∧ u.trace = s.trace ++ es)

/-- 10_state.md R34: no command writes a reserved cell, whatever it is and however it ends. -/
def Obligations.ReservedCellsAreNeverWritten : Prop :=
  ∀ (i : Instr) (s t : State), exec i s = .next t → t.readCell 5 = s.readCell 5 ∧ t.readCell 7 = s.readCell 7

/-- 10_state.md R34, 93_implementation_defined.md U1: what the reserved cells hold reaches nothing. Two states that
differ only there step to states that differ only there and are observed alike, or stop for the same reason. -/
def Obligations.ReservedContentsReachNothing : Prop :=
  ∀ s s' : State, SameButReserved s s' →
    (∀ t, step s = .next t → ∃ t', step s' = .next t' ∧ SameButReserved t t' ∧ observe t' = observe t) ∧
    (∀ f, step s = .fault f → step s' = .fault f) ∧ (∀ q, step s = .refused q → step s' = .refused q)

/-! ### The Bus Transport commands -/

/-- 41_bus_transport.md R126: WRITE on every address and payload. -/
def Obligations.WriteSendsOneFrame : Prop :=
  (∀ a d, (encode (.write a d)).toNat = 3 * 2 ^ 28 + a.toNat * 2 ^ 24 + d.toNat) ∧
  (∀ w : Word, w.toNat / 2 ^ 28 = 3 → w.toNat / 2 ^ 8 % 2 ^ 16 ≠ 0 → decode w = none) ∧
  (∀ (a : Addr) (d : Byte) (s : State), ∃ es, IsFrame s.config a d es ∧
    exec (.write a d) s =
      .next { s with levels := ⟨false, d.getLsbD 7, false⟩, trace := s.trace ++ es, phase := .idle }) ∧
  (∀ (a : Addr) (d : Byte) (s t u : State), exec (.write a d) s = .next t → exec (.write a d) t = .next u →
    ∃ es, IsFrame s.config a d es ∧ u.trace = s.trace ++ es ++ es) ∧
  (frameWord 14 0x05 = 0x05E ∧
    (List.range 12).map (fun k => (frameWord 14 0x05).getLsbD k) =
      [false, true, true, true, true, false, true, false, false, false, false, false])

/-- 41_bus_transport.md R127: COMMIT on every index. -/
def Obligations.CommitSendsTheCell : Prop :=
  (∀ r, (encode (.commit r)).toNat = 4 * 2 ^ 28 + r.toNat * 2 ^ 24) ∧
  (∀ w : Word, w.toNat / 2 ^ 28 = 4 → w.toNat % 2 ^ 24 ≠ 0 → decode w = none) ∧
  (∀ (r : Addr) (s : State), r.toNat = 5 ∨ r.toNat = 7 ∨ 9 ≤ r.toNat →
    exec (.commit r) s = .next { s with fault := some ⟨.badIndex, encode (.commit r)⟩ }) ∧
  (∀ (r : Addr) (s : State) (i : CellIndex), r.toNat = i.val → i ≠ 5 → i ≠ 7 →
    ∃ es, IsFrame s.config r (s.readCell i) es ∧
      exec (.commit r) s =
        .next { s with
          levels := ⟨false, (s.readCell i).getLsbD 7, false⟩, trace := s.trace ++ es, phase := .idle }) ∧
  (∀ (r : Addr) (s t u : State) (i : CellIndex), r.toNat = i.val → i ≠ 5 → i ≠ 7 →
    exec (.commit r) s = .next t → exec (.commit r) t = .next u →
    ∃ es, IsFrame s.config r (s.readCell i) es ∧ u.trace = s.trace ++ es ++ es) ∧
  (∀ s t u : State, exec .rstimg s = .next t → exec (.commit 3) t = .next u →
    ∃ es, IsFrame s.config 3 0x8A es ∧ u.trace = s.trace ++ es ∧ frameWord 3 0x8A = 0x8A3)

/-- 41_bus_transport.md R121: the sequencer's 42 events are the table's, and they are the listing of R120. -/
def Obligations.SequencerEmitsTheListing : Prop :=
  ∀ (a : Addr) (d : Byte) (s : State), IsFrame s.config a d (frameListing s.config a d) ∧
    (frame a d s).trace = s.trace ++ frameListing s.config a d ∧ (frame a d s).phase = .idle ∧
    ∀ k : Fin 42, (runSequencer k.val (frameWord a d) { s with phase := .at 0 }).phase = .at k ∧
      (runSequencer k.val (frameWord a d) { s with phase := .at 0 }).trace =
        s.trace ++ (frameListing s.config a d).take k.val

/-- 41_bus_transport.md R122: DATA is driven only while CLK is low, and at the rising edges of CLK it holds the slots
in wire order. -/
def Obligations.DataIsValidAtEveryRisingClock : Prop :=
  ∀ (c : BlockConfig) (a : Addr) (d : Byte) (p : PerLine Bool),
    (p.clk = false → sampled p (frameListing c a d) =
      (List.range 4).map (fun k => a.getLsbD k) ++ (List.range 8).map (fun k => d.getLsbD k)) ∧
    (∀ n b, (frameListing c a d)[n]? = some (.drive .data b) →
      (levelsAfter p ((frameListing c a d).take n)).clk = false ∧
      (frameListing c a d)[n + 1]? = some (.drive .clk true))

/-- 41_bus_transport.md R124: the edges of a frame that starts from CLK = LATCH = 0, and the levels it leaves. -/
def Obligations.FrameEdgesAreCounted : Prop :=
  ∀ (c : BlockConfig) (a : Addr) (d : Byte) (x : Bool),
    edges .clk true ⟨false, x, false⟩ (frameListing c a d) = 12 ∧
    edges .clk false ⟨false, x, false⟩ (frameListing c a d) = 12 ∧
    edges .latch true ⟨false, x, false⟩ (frameListing c a d) = 1 ∧
    edges .latch false ⟨false, x, false⟩ (frameListing c a d) = 1 ∧
    levelsAfter ⟨false, x, false⟩ ((frameListing c a d).take 2) = ⟨false, x, false⟩ ∧
    levelsAfter ⟨false, x, false⟩ (frameListing c a d) = ⟨false, d.getLsbD 7, false⟩

/-- 41_bus_transport.md R123, 70_reset_and_hazards.md R245: a frame lasts at least its two waits, so at least 5 time
units, and 37 gaps; the drives of two frames are consecutive drives too, whatever READs stand between the frames.
Which gaps `T_EDGE_MIN` bounds is log 7. -/
def Obligations.FrameLastsAtLeastItsWaits : Prop :=
  ∀ c : BlockConfig, 1 ≤ tSettle c ∧ 4 ≤ tLatchHigh c ∧
  (∀ (a : Addr) (d : Byte),
    minDuration c (frameListing c a d) = tSettle c + tLatchHigh c + 37 * c.edgeMin ∧
    5 ≤ minDuration c (frameListing c a d) ∧
    tSettle c ≤ minDuration c (((frameListing c a d).drop 36).take 3) ∧
    tLatchHigh c ≤ minDuration c (((frameListing c a d).drop 38).take 3)) ∧
  (∀ (a a' : Addr) (d d' : Byte) (reads : List (CellIndex × Byte)),
    2 * (tSettle c + tLatchHigh c) + 75 * c.edgeMin ≤
      minDuration c (frameListing c a d ++ reads.map (fun r => .readData r.1 r.2) ++ frameListing c a' d'))

/-- 41_bus_transport.md R128: the write log gains (a, d) by every WRITE(a, d), (r, img[r]) by every COMMIT(r), and
nothing by any other command. -/
def Obligations.WriteLogGainsExactlyTheFrames : Prop :=
  ∀ s : State, s.AtRest →
    (∀ a d t, exec (.write a d) s = .next t → writes t.trace = writes s.trace ++ [(a, d)]) ∧
    (∀ (r : Addr) (i : CellIndex) (t : State), r.toNat = i.val → i ≠ 5 → i ≠ 7 → exec (.commit r) s = .next t →
      writes t.trace = writes s.trace ++ [(r, s.readCell i)]) ∧
    (∀ (i : Instr) (t : State), exec i s = .next t →
      (∀ a d, i ≠ .write a d) → (∀ r, i = .commit r → r.toNat = 5 ∨ r.toNat = 7 ∨ 9 ≤ r.toNat) →
      writes t.trace = writes s.trace)

/-- 70_reset_and_hazards.md R237: a WRITE to an image address leaves the image as it was, and a READ and a COMMIT after
it use the old value. -/
def Obligations.WriteDivergesFromTheImage : Prop :=
  ∀ (a : Addr) (d : Byte) (s : State) (i : CellIndex), s.Ready → a.toNat = i.val → i ≠ 5 → i ≠ 7 →
    ∃ t u es es', runCommands [.write a d, .read a] s = .next t ∧ runCommands [.write a d, .commit a] s = .next u ∧
      t.img = s.img ∧ u.img = s.img ∧ IsFrame s.config a d es ∧ IsFrame s.config a (s.readCell i) es' ∧
      t.trace = s.trace ++ es ++ [.readData i (s.readCell i)] ∧ u.trace = s.trace ++ es ++ es'

/-- 70_reset_and_hazards.md R244: a READ right after an APPLY sees its result and a COMMIT right after it sends it. -/
def Obligations.ReadAndCommitSeeTheApply : Prop :=
  ∀ (r : Addr) (m v : Byte) (s : State) (i : CellIndex), s.Ready → r.toNat = i.val → i ≠ 5 → i ≠ 7 →
    v &&& ~~~m = 0 →
    ∃ t u es, runCommands [.apply r m v, .read r] s = .next t ∧ runCommands [.apply r m v, .commit r] s = .next u ∧
      t.trace = s.trace ++ [.readData i ((s.readCell i &&& ~~~m) ||| v)] ∧
      IsFrame s.config r ((s.readCell i &&& ~~~m) ||| v) es ∧ u.trace = s.trace ++ es

/-! ### Rules about every command -/

/-- 20_memory.md R67, for commands that raise no fault: READ only appends its event (and counts a draw, log 4), APPLY
and RSTIMG change only the image, WRITE and COMMIT only the lines, the trace and the sequencer that sends them. -/
def Obligations.SideEffectsAreTheListedOnes : Prop :=
  ∀ (s t : State), s.phase = .idle → t.fault = s.fault →
    (exec .rstimg s = .next t → t = { s with img := t.img }) ∧
    (∀ r m v, exec (.apply r m v) s = .next t → t = { s with img := t.img }) ∧
    (∀ r, exec (.read r) s = .next t → s.fault = none →
      ∃ i v, t = { s with trace := s.trace ++ [.readData i v], draws := t.draws }) ∧
    (∀ a d, exec (.write a d) s = .next t → t = { s with levels := t.levels, trace := t.trace }) ∧
    (∀ r, exec (.commit r) s = .next t → t = { s with levels := t.levels, trace := t.trace })

/-- 10_state.md R46: the trace is empty after reset and commands only append to it. -/
def Obligations.CommandsOnlyAppendToTheTrace : Prop :=
  (∀ c, (State.resetWith c).trace = []) ∧
  ∀ s t : State, step s = .next t → (∀ rest, s.inputs ≠ .blockReset :: rest) → ∃ es, t.trace = s.trace ++ es

/-- 70_reset_and_hazards.md R239: a command raises no fault exactly when its index and its value are the ones the rule
asks for; otherwise the block has a fault and accepts no command any more. -/
def Obligations.OnlyIllFormedCommandsFault : Prop :=
  ∀ (i : Instr) (s : State), s.Ready →
    (i.wellFormed = true → ∃ t, exec i s = .next t ∧ t.fault = none) ∧
    (i.wellFormed = false → ∃ t, exec i s = .next t ∧ t.fault ≠ none ∧
      ∀ w rest, step { t with inputs := .command w :: rest } = .fault .faulted)

/-- Every list of well-formed commands, of any length, runs to its end without a fault, from any state that accepts a
command (70_reset_and_hazards.md R239, 20_memory.md R71). -/
def Obligations.WellFormedSequencesRunSafely : Prop :=
  ∀ (is : List Instr) (s : State), s.Ready → (∀ i ∈ is, i.wellFormed = true) →
    ∃ t, runCommands is s = .next t ∧ t.Ready ∧ t.inputs = s.inputs ∧
      ∃ es, t.trace = s.trace ++ es

/-! ### Faults -/

/-- 60_exceptions.md R202: the codes, which commands raise which kind, and that the command word is what is
recorded. -/
def Obligations.FaultKindsAndTheirCauses : Prop :=
  faultCode none = 0 ∧ kindCode .illegalCommand = 1 ∧ kindCode .badIndex = 2 ∧ kindCode .valueOutsideMask = 3 ∧
  ∀ (s t : State) (w : Word) (rest : List Input), s.inputs = .command w :: rest → s.Ready → step s = .next t →
    ∀ k c, t.fault = some ⟨k, c⟩ → c = w ∧
      match k with
      | .illegalCommand => decode w = none
      | .badIndex =>
          (∃ r m v, decode w = some (.apply r m v) ∧ (r.toNat = 5 ∨ r.toNat = 7 ∨ 9 ≤ r.toNat)) ∨
          (∃ r, decode w = some (.commit r) ∧ (r.toNat = 5 ∨ r.toNat = 7 ∨ 9 ≤ r.toNat)) ∨
          (∃ r, decode w = some (.read r) ∧ 9 ≤ r.toNat)
      | .valueOutsideMask => ∃ r m v, decode w = some (.apply r m v) ∧ v &&& ~~~m ≠ 0

/-- 60_exceptions.md R204: BadIndex is raised by APPLY and COMMIT on 5, 7 and 9 to 15, by READ above 8, and by nothing
else. -/
def Obligations.BadIndexIsRaisedExactlyThere : Prop :=
  ∀ (i : Instr) (s : State), s.fault = none → ∃ t, exec i s = .next t ∧
    ((∃ c, t.fault = some ⟨.badIndex, c⟩) ↔
      match i with
      | .apply r _ _ | .commit r => r.toNat = 5 ∨ r.toNat = 7 ∨ 9 ≤ r.toNat
      | .read r => 8 < r.toNat
      | .rstimg | .write _ _ => False)

/-- 60_exceptions.md R205: ValueOutsideMask is raised by APPLY on a used index whose value has a bit outside the mask,
and by nothing else. -/
def Obligations.ValueOutsideMaskIsRaisedExactlyThere : Prop :=
  ∀ (i : Instr) (s : State), s.fault = none → ∃ t, exec i s = .next t ∧
    ((∃ c, t.fault = some ⟨.valueOutsideMask, c⟩) ↔
      ∃ r m v, i = .apply r m v ∧ r ∈ ([0, 1, 2, 3, 4, 6, 8] : List Addr) ∧ v &&& ~~~m ≠ 0)

/-- 60_exceptions.md R206: of several faults one is raised: IllegalCommand before BadIndex before ValueOutsideMask. -/
def Obligations.FaultPriority : Prop :=
  ∀ (s : State) (w : Word) (rest : List Input), s.inputs = .command w :: rest → s.Ready →
    (decode w = none → step s = .next { s with inputs := rest, fault := some ⟨.illegalCommand, w⟩ }) ∧
    (∀ r m v, decode w = some (.apply r m v) → r.toNat = 5 ∨ r.toNat = 7 ∨ 9 ≤ r.toNat → v &&& ~~~m ≠ 0 →
      step s = .next { s with inputs := rest, fault := some ⟨.badIndex, w⟩ }) ∧
    (w = 0x25000001 → decode w = some (.apply 5 0x00 0x01) ∧
      step s = .next { s with inputs := rest, fault := some ⟨.badIndex, w⟩ })

/-- 60_exceptions.md R201: raising a fault sets the record, has no other effect, and the block then accepts no further
command until block reset. -/
def Obligations.RaisingAFaultHasNoOtherEffect : Prop :=
  ∀ (s t : State) (w : Word) (rest : List Input), s.inputs = .command w :: rest → s.Ready → step s = .next t →
    t.fault ≠ none →
    (∃ k, t = { s with inputs := rest, fault := some ⟨k, w⟩ }) ∧
    (∀ w' rest', rest = .command w' :: rest' → step t = .fault .faulted) ∧
    (∀ rest', rest = .blockReset :: rest' → ∃ u, step t = .next u ∧ u.fault = none)

/-- 60_exceptions.md R208: while a fault is recorded no command is accepted and nothing happens: the block is stuck, not
at an end, and only block reset clears the record. -/
def Obligations.FaultedBlockIsStuck : Prop :=
  ∀ (s : State) (f : FaultRecord), s.fault = some f →
    (∀ w rest, s.inputs = .command w :: rest → step s = .fault .faulted) ∧
    (s.inputs = [] → step s = .fault .faulted) ∧
    (∀ t, step s = .next t → (∃ rest, s.inputs = .blockReset :: rest) ∧ t.fault = none) ∧
    (∀ rest, s.inputs = .blockReset :: rest → ∃ t, step s = .next t ∧ t.fault = none)

/-- 70_reset_and_hazards.md R234: RSTIMG is not block reset. It leaves the lines, the fault record and the trace, and it
cannot clear a fault. -/
def Obligations.RstimgIsNotBlockReset : Prop :=
  (∀ s : State, ∃ t, exec .rstimg s = .next t ∧ t = { s with img := t.img } ∧
    (∀ i : CellIndex, (i = 5 ∨ i = 7) → t.readCell i = s.readCell i)) ∧
  (∀ (s : State) (f : FaultRecord) (rest : List Input), s.fault = some f →
    s.inputs = .command (encode .rstimg) :: rest → step s = .fault .faulted)

/-! ### Host sequences -/

/-- 42_host_sequences.md R168: the four bands and their boundaries. -/
def Obligations.BandsByFrequency : Prop :=
  ∀ f : Nat, (band f = 3 ↔ f < 88500000) ∧ (band f = 2 ↔ 88500000 ≤ f ∧ f < 97900000) ∧
    (band f = 1 ↔ 97900000 ≤ f ∧ f < 103000000) ∧ (band f = 0 ↔ 103000000 ≤ f)

/-- 42_host_sequences.md R169 and R170: the tuning word is the truncated quotient, its two bytes make it up again, the
admitted frequencies are those up to 133,913,727, and TUNE and BEGIN are refused above. -/
def Obligations.TuningWordAndAdmission : Prop :=
  (∀ f : Nat, tuningWord f * 8192 ≤ f + 304000 ∧ f + 304000 < (tuningWord f + 1) * 8192) ∧
  (∀ f : Nat, admitted f = true ↔ f ≤ 133913727) ∧
  (∀ f : Nat, admitted f = true →
    (tuningLow f).toNat + 256 * (tuningHigh f).toNat = tuningWord f ∧ (tuningHigh f).toNat < 64) ∧
  (∀ (p : FacadeParams) (f : Nat) (rst : Bool), 133913727 < f → seqTune p f rst = none ∧ seqBegin p f = none) ∧
  (tuningWord 0 = 37 ∧ band 0 = 3 ∧ tuningWord 97300000 = 11914 ∧ tuningLow 97300000 = 0x8A ∧
    tuningHigh 97300000 = 0x2E)

/-- 42_host_sequences.md R153: SET is one masked update and exactly one frame, of the new value. -/
def Obligations.SetUpdatesAndSendsOneFrame : Prop :=
  (∀ (r : Addr) (m v : Byte), seqSet r m v = [.apply r m v, .commit r]) ∧
  (∀ (r : Addr) (m v : Byte) (s : State) (i : CellIndex), s.Ready → r.toNat = i.val → i ≠ 5 → i ≠ 7 →
    v &&& ~~~m = 0 →
    ∃ t es, runCommands (seqSet r m v) s = .next t ∧ IsFrame s.config r (t.readCell i) es ∧ t.trace = s.trace ++ es ∧
      t.readCell i = (s.readCell i &&& ~~~m) ||| v ∧
      (∀ j : CellIndex, j ≠ i → t.readCell j = s.readCell j) ∧
      t = { s with img := t.img, levels := t.levels, trace := t.trace }) ∧
  (∀ c : BlockConfig, ∃ t es, runCommands (seqSet 8 0x03 0x02) (State.resetWith c) = .next t ∧ t.readCell 8 = 0x1A ∧
    IsFrame c 8 0x1A es ∧ t.trace = es ∧ frameWord 8 0x1A = 0x1A8)

/-- 42_host_sequences.md R154: an unrecognised option changes no field, and the unchanged cell is still sent, each field
from its own cell. -/
def Obligations.UnrecognisedOptionStillSends : Prop :=
  ∀ (p : FacadeParams) (s : State), p.fields.wellFormed = true → s.AtRest → s.fault = none →
    ∀ q r, (q, r) ∈
        [(seqInLevel p .other, (0 : Addr)), (seqPreemph p .other, 0), (seqOutLevel p .other, 2),
          (seqUnlockDetect p .other, 2), (seqPilot p .other, p.fields.pilotReg),
          (seqSubcarrier p .other, p.fields.subcReg)] →
      q = [.commit r] ∧
      ∃ (t : State) (i : CellIndex), r.toNat = i.val ∧ runCommands q s = .next t ∧ t.img = s.img ∧ t.fault = none ∧
        writes t.trace = writes s.trace ++ [(r, s.readCell i)]

/-- 42_host_sequences.md R178: every setter is idempotent on the image but not on the bus: run twice, it leaves the
image as once and sends two identical frames. -/
def Obligations.SettersRepeatOnTheBusOnly : Prop :=
  ∀ (p : FacadeParams) (s : State), p.fields.wellFormed = true → s.AtRest → s.fault = none →
    ∀ q ∈ setters p, ∃ t u frameSent, runCommands q s = .next t ∧ runCommands (q ++ q) s = .next u ∧
      u.img = t.img ∧ writes t.trace = writes s.trace ++ [frameSent] ∧
      writes u.trace = writes s.trace ++ [frameSent, frameSent]

/-- 42_host_sequences.md R171 and R172: what TUNE sends and what it leaves in the image. -/
def Obligations.TuneSendsAndLeaves : Prop :=
  ∀ (p : FacadeParams) (f : Nat) (rst : Bool) (s : State), p.fields.wellFormed = true → admitted f = true →
    s.AtRest → s.fault = none →
    ∃ is t, seqTune p f rst = some is ∧ runCommands is s = .next t ∧
      writes t.trace = writes s.trace ++
        [(8, (s.readCell 8 &&& 0xFC) ||| band f),
         (6, (s.readCell 6 &&& ~~~p.fields.cpMask) ||| p.fields.cpHigh),
         (3, tuningLow f), (4, tuningHigh f),
         (6, (s.readCell 6 &&& ~~~p.fields.cpMask) ||| p.fields.cpLow)] ++
        (if rst then [(p.chipResetAddr, p.chipResetData)] else []) ∧
      t.readCell 3 = tuningLow f ∧ t.readCell 4 = tuningHigh f ∧
      t.readCell 8 &&& 0x03 = band f ∧ t.readCell 8 &&& 0xFC = s.readCell 8 &&& 0xFC ∧
      t.readCell 6 = (s.readCell 6 &&& ~~~p.fields.cpMask) ||| p.fields.cpLow ∧
      (∀ i : CellIndex, i ≠ 3 → i ≠ 4 → i ≠ 6 → i ≠ 8 → t.readCell i = s.readCell i) ∧ t.fault = none

/-- 42_host_sequences.md R173, R174: BEGIN sends exactly 15 frames, to the listed addresses in order, the first and the
last being the chip reset, and 70_reset_and_hazards.md R245: what it appends lasts at least 75 time units. -/
def Obligations.BeginSendsFifteenFrames : Prop :=
  ∀ (p : FacadeParams) (f : Nat) (s : State), p.fields.wellFormed = true → admitted f = true →
    s.AtRest → s.fault = none →
    ∃ is t log es, seqBegin p f = some is ∧ runCommands is s = .next t ∧ t.trace = s.trace ++ es ∧
      writes t.trace = writes s.trace ++ log ∧ log.length = 15 ∧
      log.map Prod.fst = [p.chipResetAddr, p.fields.pilotReg, 2, 2, p.fields.subcReg, 8, 6, 3, 4, 6, 0, 0, 0, 0,
        p.chipResetAddr] ∧
      log.head? = some (p.chipResetAddr, p.chipResetData) ∧
      log.getLast? = some (p.chipResetAddr, p.chipResetData) ∧
      75 ≤ minDuration s.config es

/-- 42_host_sequences.md R175: the image after BEGIN. -/
def Obligations.BeginLeavesTheImage : Prop :=
  ∀ (p : FacadeParams) (f : Nat) (s : State), p.fields.wellFormed = true → admitted f = true →
    s.AtRest → s.fault = none →
    ∃ is t, seqBegin p f = some is ∧ runCommands is s = .next t ∧
      t.readCell 3 = tuningLow f ∧ t.readCell 4 = tuningHigh f ∧ t.readCell 8 = 0x18 ||| band f ∧
      t.readCell 6 = (0x1A &&& ~~~p.fields.cpMask) ||| p.fields.cpLow ∧
      t.readCell 0 = (0x00 &&& ~~~(p.fields.pwrMask ||| p.fields.muteMask ||| p.fields.peMask ||| p.fields.inMask)) |||
        p.fields.pwrOn ||| p.fields.muteOff ||| p.fields.pe50 ||| p.fields.inMed ∧
      t.readCell 1 = (0xB4 &&& ~~~beginMask p.fields 1) ||| beginValue p.fields 1 ∧
      t.readCell 2 = (0x05 &&& ~~~beginMask p.fields 2) ||| beginValue p.fields 2 ∧
      t.readCell 5 = s.readCell 5 ∧ t.readCell 7 = s.readCell 7 ∧
      (f = 97300000 → t.readCell 3 = 0x8A ∧ t.readCell 4 = 0x2E ∧ t.readCell 8 = 0x1A)

/-- 42_host_sequences.md R177: DUMP reports the nine cells in index order, the reserved ones as two draws, each a
fresh one, and sends no frame. -/
def Obligations.DumpReportsTheCellsInOrder : Prop :=
  ∀ s : State, s.Ready → ∃ t m n, m ≠ n ∧ runCommands seqDump s = .next t ∧
    t.trace = s.trace ++
      [.readData 0 (s.readCell 0), .readData 1 (s.readCell 1), .readData 2 (s.readCell 2),
       .readData 3 (s.readCell 3), .readData 4 (s.readCell 4), .readData 5 (Config.draw s.config.instanceId m),
       .readData 6 (s.readCell 6), .readData 7 (Config.draw s.config.instanceId n), .readData 8 (s.readCell 8)] ∧
    t.img = s.img ∧ t.levels = s.levels ∧ t.fault = none

/-- 42_host_sequences.md R152 (a): with a field map that meets the constraints, no facade APPLY faults: every command
of every setter, of TUNE and of BEGIN is well-formed. -/
def Obligations.FacadeCommandsAreWellFormed : Prop :=
  ∀ (p : FacadeParams) (f : Nat) (rst : Bool), p.fields.wellFormed = true →
    (∀ q ∈ setters p, ∀ i ∈ q, i.wellFormed = true) ∧
    (∀ is, seqTune p f rst = some is → ∀ i ∈ is, i.wellFormed = true) ∧
    (∀ is, seqBegin p f = some is → ∀ i ∈ is, i.wellFormed = true) ∧
    (∀ i ∈ seqDump, i.wellFormed = true)

/-- 30_encoding.md R90: the assembler takes an operand exactly when it is in its field's range, and the words it makes
carry the operands in their fields. -/
def Obligations.AssemblerChecksOperandRanges : Prop :=
  ∀ (p : FacadeParams) (i m v : Nat) (is : List Instr),
    (expand p (.apply i m v) = some is ↔ (i < 16 ∧ m < 256 ∧ v < 256) ∧
      is.map (fun c => (encode c).toNat) = [2 * 2 ^ 28 + i * 2 ^ 24 + m * 2 ^ 8 + v]) ∧
    (expand p (.write i v) = some is ↔ (i < 16 ∧ v < 256) ∧
      is.map (fun c => (encode c).toNat) = [3 * 2 ^ 28 + i * 2 ^ 24 + v]) ∧
    (expand p (.commit i) = some is ↔ i < 16 ∧
      is.map (fun c => (encode c).toNat) = [4 * 2 ^ 28 + i * 2 ^ 24]) ∧
    (expand p (.read i) = some is ↔ i < 16 ∧
      is.map (fun c => (encode c).toNat) = [5 * 2 ^ 28 + i * 2 ^ 24])

/-- 42_host_sequences.md R155 to R165: which cell each setter updates with which option, that the update is masked and
everything else stays, and that the setter sends exactly the frame of the new value; POWERON sets the power-enable and
the crystal bit. -/
def Obligations.EverySetterUpdatesAndSendsItsCell : Prop :=
  ∀ (p : FacadeParams) (s : State), p.fields.wellFormed = true → s.AtRest → s.fault = none →
    (∀ row ∈ setterTable p,
      row.commands = (match row.update with
        | some (m, v) => [.apply row.cell m v, .commit row.cell]
        | none => [.commit row.cell]) ∧
      ∃ (t : State) (i : CellIndex) (es : List Event), row.cell.toNat = i.val ∧
        runCommands row.commands s = .next t ∧
        t.readCell i = (match row.update with
          | some (m, v) => (s.readCell i &&& ~~~m) ||| v
          | none => s.readCell i) ∧
        (∀ j : CellIndex, j ≠ i → t.readCell j = s.readCell j) ∧
        IsFrame s.config row.cell (t.readCell i) es ∧ t.trace = s.trace ++ es ∧
        writes t.trace = writes s.trace ++ [(row.cell, t.readCell i)] ∧
        t = { s with img := t.img, levels := t.levels, trace := t.trace }) ∧
    (∃ t, runCommands (seqPowerOn p) s = .next t ∧
      (t.readCell 0).getLsbD p.fields.pwrEnableBit = true ∧ (t.readCell 0).getLsbD p.fields.crystalBit = true)

/-- 42_host_sequences.md R166 and R167: CHIPRST sends the one frame of its parameters and changes no cell; FULLRST leaves
the defaults and sends nothing. -/
def Obligations.ManualResets : Prop :=
  (∀ (p : FacadeParams) (s : State), s.Ready → ∃ t es, runCommands (seqChipReset p) s = .next t ∧ t.img = s.img ∧
    IsFrame s.config p.chipResetAddr p.chipResetData es ∧ t.trace = s.trace ++ es ∧ t.fault = none) ∧
  (seqFullReset = [.rstimg]) ∧
  (∀ s : State, s.Ready → ∃ t, runCommands seqFullReset s = .next t ∧ t = { s with img := t.img } ∧
    ∀ i : CellIndex, i ≠ 5 → i ≠ 7 → defaultCell i = some (t.readCell i))

/-! ### Configuration and instances -/

/-- 10_state.md R47: no step, block reset included, changes the configuration that the commands read. That a block reset
keeps it is log 12. -/
def Obligations.ConfigurationIsFixed : Prop :=
  ∀ s t : State, step s = .next t → t.config = s.config

/-- 60_exceptions.md R215: a step of one instance is its own step and leaves every other one as it was, configuration
included; steps of two instances commute; and instances that are told apart stay so. How several instances stand side by
side is log 18. -/
def Obligations.InstancesAreIndependent : Prop :=
  ∀ (n : Nat) (xs ys : Vector Instance n) (k : Fin n), stepInstance k xs = .next ys →
    (∃ t, step xs[k].state = .next t ∧ ys[k] = { xs[k] with state := t }) ∧
    (∀ j : Fin n, j ≠ k → ys[j] = xs[j]) ∧
    (∀ (j : Fin n) (zs : Vector Instance n), j ≠ k → stepInstance j xs = .next zs →
      ∃ ws, stepInstance j ys = .next ws ∧ stepInstance k zs = .next ws) ∧
    (NamedApart xs → NamedApart ys)
end

