-- ==== Sys2Proof/Laws/State.lean ====
section
/-! SUPPORT. One lemma per field of State and update, so that no proof unfolds a record update. -/

namespace Sys2Proof.Machine

variable (s : State)

@[simp] theorem State.writeCell_img (i : CellIndex) (v : Byte) : (s.writeCell i v).img = s.img.set i v := rfl
@[simp] theorem State.writeCell_levels (i : CellIndex) (v : Byte) : (s.writeCell i v).levels = s.levels := rfl
@[simp] theorem State.writeCell_dirs (i : CellIndex) (v : Byte) : (s.writeCell i v).dirs = s.dirs := rfl
@[simp] theorem State.writeCell_fault (i : CellIndex) (v : Byte) : (s.writeCell i v).fault = s.fault := rfl
@[simp] theorem State.writeCell_trace (i : CellIndex) (v : Byte) : (s.writeCell i v).trace = s.trace := rfl
@[simp] theorem State.writeCell_phase (i : CellIndex) (v : Byte) : (s.writeCell i v).phase = s.phase := rfl
@[simp] theorem State.writeCell_draws (i : CellIndex) (v : Byte) : (s.writeCell i v).draws = s.draws := rfl
@[simp] theorem State.writeCell_inputs (i : CellIndex) (v : Byte) : (s.writeCell i v).inputs = s.inputs := rfl
@[simp] theorem State.writeCell_config (i : CellIndex) (v : Byte) : (s.writeCell i v).config = s.config := rfl

@[simp] theorem State.loadDefaults_img : (s.loadDefaults).img = Vector.ofFn fun i => (defaultCell i).getD s.img[i] := rfl
@[simp] theorem State.loadDefaults_levels : (s.loadDefaults).levels = s.levels := rfl
@[simp] theorem State.loadDefaults_dirs : (s.loadDefaults).dirs = s.dirs := rfl
@[simp] theorem State.loadDefaults_fault : (s.loadDefaults).fault = s.fault := rfl
@[simp] theorem State.loadDefaults_trace : (s.loadDefaults).trace = s.trace := rfl
@[simp] theorem State.loadDefaults_phase : (s.loadDefaults).phase = s.phase := rfl
@[simp] theorem State.loadDefaults_draws : (s.loadDefaults).draws = s.draws := rfl
@[simp] theorem State.loadDefaults_inputs : (s.loadDefaults).inputs = s.inputs := rfl
@[simp] theorem State.loadDefaults_config : (s.loadDefaults).config = s.config := rfl

@[simp] theorem State.emit_img (e : Event) : (s.emit e).img = s.img := rfl
@[simp] theorem State.emit_levels (e : Event) : (s.emit e).levels = s.levels := rfl
@[simp] theorem State.emit_dirs (e : Event) : (s.emit e).dirs = s.dirs := rfl
@[simp] theorem State.emit_fault (e : Event) : (s.emit e).fault = s.fault := rfl
@[simp] theorem State.emit_trace (e : Event) : (s.emit e).trace = s.trace ++ [e] := rfl
@[simp] theorem State.emit_phase (e : Event) : (s.emit e).phase = s.phase := rfl
@[simp] theorem State.emit_draws (e : Event) : (s.emit e).draws = s.draws := rfl
@[simp] theorem State.emit_inputs (e : Event) : (s.emit e).inputs = s.inputs := rfl
@[simp] theorem State.emit_config (e : Event) : (s.emit e).config = s.config := rfl

@[simp] theorem State.drive_img (l : Line) (b : Bool) : (s.drive l b).img = s.img := rfl
@[simp] theorem State.drive_levels (l : Line) (b : Bool) : (s.drive l b).levels = s.levels.put l b := rfl
@[simp] theorem State.drive_dirs (l : Line) (b : Bool) : (s.drive l b).dirs = s.dirs := rfl
@[simp] theorem State.drive_fault (l : Line) (b : Bool) : (s.drive l b).fault = s.fault := rfl
@[simp] theorem State.drive_trace (l : Line) (b : Bool) : (s.drive l b).trace = s.trace ++ [.drive l b] := rfl
@[simp] theorem State.drive_phase (l : Line) (b : Bool) : (s.drive l b).phase = s.phase := rfl
@[simp] theorem State.drive_draws (l : Line) (b : Bool) : (s.drive l b).draws = s.draws := rfl
@[simp] theorem State.drive_inputs (l : Line) (b : Bool) : (s.drive l b).inputs = s.inputs := rfl
@[simp] theorem State.drive_config (l : Line) (b : Bool) : (s.drive l b).config = s.config := rfl

@[simp] theorem State.wait_img (n : Nat) : (s.wait n).img = s.img := rfl
@[simp] theorem State.wait_levels (n : Nat) : (s.wait n).levels = s.levels := rfl
@[simp] theorem State.wait_dirs (n : Nat) : (s.wait n).dirs = s.dirs := rfl
@[simp] theorem State.wait_fault (n : Nat) : (s.wait n).fault = s.fault := rfl
@[simp] theorem State.wait_trace (n : Nat) : (s.wait n).trace = s.trace ++ [.wait n] := rfl
@[simp] theorem State.wait_phase (n : Nat) : (s.wait n).phase = s.phase := rfl
@[simp] theorem State.wait_draws (n : Nat) : (s.wait n).draws = s.draws := rfl
@[simp] theorem State.wait_inputs (n : Nat) : (s.wait n).inputs = s.inputs := rfl
@[simp] theorem State.wait_config (n : Nat) : (s.wait n).config = s.config := rfl

@[simp] theorem State.countDraw_img : (s.countDraw).img = s.img := rfl
@[simp] theorem State.countDraw_levels : (s.countDraw).levels = s.levels := rfl
@[simp] theorem State.countDraw_dirs : (s.countDraw).dirs = s.dirs := rfl
@[simp] theorem State.countDraw_fault : (s.countDraw).fault = s.fault := rfl
@[simp] theorem State.countDraw_trace : (s.countDraw).trace = s.trace := rfl
@[simp] theorem State.countDraw_phase : (s.countDraw).phase = s.phase := rfl
@[simp] theorem State.countDraw_draws : (s.countDraw).draws = s.draws + 1 := rfl
@[simp] theorem State.countDraw_inputs : (s.countDraw).inputs = s.inputs := rfl
@[simp] theorem State.countDraw_config : (s.countDraw).config = s.config := rfl

@[simp] theorem raiseFault_img (k : FaultKind) (w : Word) : (raiseFault k w s).img = s.img := rfl
@[simp] theorem raiseFault_levels (k : FaultKind) (w : Word) : (raiseFault k w s).levels = s.levels := rfl
@[simp] theorem raiseFault_dirs (k : FaultKind) (w : Word) : (raiseFault k w s).dirs = s.dirs := rfl
@[simp] theorem raiseFault_fault (k : FaultKind) (w : Word) : (raiseFault k w s).fault = some ⟨k, w⟩ := rfl
@[simp] theorem raiseFault_trace (k : FaultKind) (w : Word) : (raiseFault k w s).trace = s.trace := rfl
@[simp] theorem raiseFault_phase (k : FaultKind) (w : Word) : (raiseFault k w s).phase = s.phase := rfl
@[simp] theorem raiseFault_draws (k : FaultKind) (w : Word) : (raiseFault k w s).draws = s.draws := rfl
@[simp] theorem raiseFault_inputs (k : FaultKind) (w : Word) : (raiseFault k w s).inputs = s.inputs := rfl
@[simp] theorem raiseFault_config (k : FaultKind) (w : Word) : (raiseFault k w s).config = s.config := rfl

@[simp] theorem State.perform_img (e : Event) : (s.perform e).img = s.img := by cases e <;> rfl
@[simp] theorem State.perform_levels (e : Event) : (s.perform e).levels = levelsStep s.levels e := by cases e <;> rfl
@[simp] theorem State.perform_dirs (e : Event) : (s.perform e).dirs = s.dirs := by cases e <;> rfl
@[simp] theorem State.perform_fault (e : Event) : (s.perform e).fault = s.fault := by cases e <;> rfl
@[simp] theorem State.perform_trace (e : Event) : (s.perform e).trace = s.trace ++ [e] := by cases e <;> rfl
@[simp] theorem State.perform_phase (e : Event) : (s.perform e).phase = s.phase := by cases e <;> rfl
@[simp] theorem State.perform_draws (e : Event) : (s.perform e).draws = s.draws := by cases e <;> rfl
@[simp] theorem State.perform_inputs (e : Event) : (s.perform e).inputs = s.inputs := by cases e <;> rfl
@[simp] theorem State.perform_config (e : Event) : (s.perform e).config = s.config := by cases e <;> rfl

@[simp] theorem blockReset_img : (blockReset s).img = (State.resetWith s.config).img := rfl
@[simp] theorem blockReset_levels : (blockReset s).levels = (State.resetWith s.config).levels := rfl
@[simp] theorem blockReset_dirs : (blockReset s).dirs = (State.resetWith s.config).dirs := rfl
@[simp] theorem blockReset_fault : (blockReset s).fault = (State.resetWith s.config).fault := rfl
@[simp] theorem blockReset_trace : (blockReset s).trace = (State.resetWith s.config).trace := rfl
@[simp] theorem blockReset_phase : (blockReset s).phase = (State.resetWith s.config).phase := rfl
@[simp] theorem blockReset_draws : (blockReset s).draws = s.draws := rfl
@[simp] theorem blockReset_inputs : (blockReset s).inputs = s.inputs := rfl
@[simp] theorem blockReset_config : (blockReset s).config = s.config := rfl

@[simp] theorem State.resetWith_fault (c : BlockConfig) : (State.resetWith c).fault = none := rfl
@[simp] theorem State.resetWith_phase (c : BlockConfig) : (State.resetWith c).phase = .idle := rfl
@[simp] theorem State.resetWith_levels (c : BlockConfig) : (State.resetWith c).levels = ⟨false, false, false⟩ := rfl
@[simp] theorem State.resetWith_dirs (c : BlockConfig) : (State.resetWith c).dirs = ⟨.output, .output, .output⟩ := rfl
@[simp] theorem State.resetWith_trace (c : BlockConfig) : (State.resetWith c).trace = [] := rfl
@[simp] theorem State.resetWith_inputs (c : BlockConfig) : (State.resetWith c).inputs = [] := rfl
@[simp] theorem State.resetWith_config (c : BlockConfig) : (State.resetWith c).config = c := rfl

@[simp] theorem State.reset_fault : State.reset.fault = none := rfl
@[simp] theorem State.reset_phase : State.reset.phase = .idle := rfl
@[simp] theorem State.reset_levels : State.reset.levels = ⟨false, false, false⟩ := rfl
@[simp] theorem State.reset_dirs : State.reset.dirs = ⟨.output, .output, .output⟩ := rfl
@[simp] theorem State.reset_trace : State.reset.trace = [] := rfl
@[simp] theorem State.reset_inputs : State.reset.inputs = [] := rfl
@[simp] theorem State.reset_config : State.reset.config = .defaults := rfl

@[simp] theorem PerLine.get_put_same {α : Type} (p : PerLine α) (l : Line) (x : α) : (p.put l x).get l = x := by
  cases l <;> rfl

theorem PerLine.get_put_other {α : Type} (p : PerLine α) {l l' : Line} (h : l' ≠ l) (x : α) :
    (p.put l x).get l' = p.get l' := by
  cases l <;> cases l' <;> first | rfl | exact absurd rfl h

end Sys2Proof.Machine
end

