-- ==== Sys2Proof/Laws/Ops.lean ====
section
/-! SUPPORT. One lemma per shared operation that says everything it can do, for proofs to cite. -/

namespace Sys2Proof.Machine

/-! The image's cells. -/

@[simp] theorem readCell_writeCell_same (s : State) (i : CellIndex) (v : Byte) : (s.writeCell i v).readCell i = v := by
  simp [State.readCell]

theorem readCell_writeCell_other (s : State) {i j : CellIndex} (h : j ≠ i) (v : Byte) :
    (s.writeCell i v).readCell j = s.readCell j := by
  simp only [State.readCell, State.writeCell]
  exact Vector.getElem_set_ne _ _ (fun e => h (Fin.ext e.symm))

@[simp] theorem readCell_loadDefaults (s : State) (i : CellIndex) :
    s.loadDefaults.readCell i = (defaultCell i).getD (s.readCell i) := by
  simp [State.readCell]

/-! What an index names. -/

theorem usedCell_eq_some_iff (r : Addr) (i : CellIndex) :
    usedCell r = some i ↔ r.toNat = i.val ∧ isReserved i = false := by
  revert r i; decide

theorem usedCell_eq_none_iff (r : Addr) : usedCell r = none ↔ r.toNat = 5 ∨ r.toNat = 7 ∨ 9 ≤ r.toNat := by
  revert r; decide

theorem readableCell_eq_some_iff (r : Addr) (i : CellIndex) : readableCell r = some i ↔ r.toNat = i.val := by
  revert r i; decide

theorem readableCell_eq_none_iff (r : Addr) : readableCell r = none ↔ 9 ≤ r.toNat := by
  revert r; decide

/-! The masked update, bit by bit. -/

theorem masked_getLsbD (old m v : Byte) (k : Nat) :
    (masked old m v).getLsbD k = (old.getLsbD k && !m.getLsbD k || v.getLsbD k) := by
  rcases Nat.lt_or_ge k 8 with hk | hk
  · simp [masked, hk]
  · simp [masked, BitVec.getLsbD_of_ge _ _ hk]

/-! The configuration. -/

@[simp] theorem tSettle_defaults : tSettle .defaults = 1 := rfl
@[simp] theorem tLatchHigh_defaults : tLatchHigh .defaults = 4 := rfl

theorem one_le_tSettle (c : BlockConfig) : 1 ≤ tSettle c := Nat.le_add_right 1 _

theorem four_le_tLatchHigh (c : BlockConfig) : 4 ≤ tLatchHigh c := Nat.le_add_right 4 _

/-- What two pieces of a trace take, the whole takes. -/
theorem minDuration_append_le (c : BlockConfig) (es es' : List Event) :
    minDuration c es + minDuration c es' ≤ minDuration c (es ++ es') := by
  induction es with
  | nil => simp [minDuration]
  | cons e es ih =>
    cases es with
    | nil => cases es' <;> simp [minDuration]
    | cons e' es =>
      simp only [List.cons_append, minDuration] at ih ⊢
      omega

/-! The frame sequencer. -/

theorem phaseEvents_eq_frameListing (c : BlockConfig) (a : Addr) (d : Byte) :
    (List.finRange 42).map (phaseEvent c (frameWord a d)) = frameListing c a d := by
  rfl

/-- The listing written out, so that no proof computes it again. -/
theorem frameListing_explicit (c : BlockConfig) (a : Addr) (d : Byte) :
    frameListing c a d =
      [.drive .latch false,
       .drive .clk false, .drive .data ((frameWord a d).getLsbD 0), .drive .clk true,
       .drive .clk false, .drive .data ((frameWord a d).getLsbD 1), .drive .clk true,
       .drive .clk false, .drive .data ((frameWord a d).getLsbD 2), .drive .clk true,
       .drive .clk false, .drive .data ((frameWord a d).getLsbD 3), .drive .clk true,
       .drive .clk false, .drive .data ((frameWord a d).getLsbD 4), .drive .clk true,
       .drive .clk false, .drive .data ((frameWord a d).getLsbD 5), .drive .clk true,
       .drive .clk false, .drive .data ((frameWord a d).getLsbD 6), .drive .clk true,
       .drive .clk false, .drive .data ((frameWord a d).getLsbD 7), .drive .clk true,
       .drive .clk false, .drive .data ((frameWord a d).getLsbD 8), .drive .clk true,
       .drive .clk false, .drive .data ((frameWord a d).getLsbD 9), .drive .clk true,
       .drive .clk false, .drive .data ((frameWord a d).getLsbD 10), .drive .clk true,
       .drive .clk false, .drive .data ((frameWord a d).getLsbD 11), .drive .clk true,
       .wait (tSettle c), .drive .latch true, .wait (tLatchHigh c), .drive .latch false, .drive .clk false] := rfl

/-- A state after events that only drive lines, wait or report: levels follow the events, the trace gains them. -/
theorem runSequencer_from (f : FrameWord) (n : Nat) (s : State) (k : Fin 42) (hn : n + k.val = 42)
    (hk : s.phase = .at k) :
    runSequencer n f s =
      { s with
        levels := levelsAfter s.levels (((List.finRange 42).drop k.val).map (phaseEvent s.config f))
        trace := s.trace ++ ((List.finRange 42).drop k.val).map (phaseEvent s.config f)
        phase := .idle } := by
  induction n generalizing s k with
  | zero => omega
  | succ n ih =>
    have hdrop : (List.finRange 42).drop k.val = k :: (List.finRange 42).drop (k.val + 1) := by
      rw [List.drop_eq_getElem_cons (by simp)]; simp
    have htick : sequencerTick f s = { s.perform (phaseEvent s.config f k) with phase := nextPhase k } := by
      simp [sequencerTick, hk]
    have hparts : { s.perform (phaseEvent s.config f k) with phase := nextPhase k } =
        { s with
          levels := levelsStep s.levels (phaseEvent s.config f k)
          trace := s.trace ++ [phaseEvent s.config f k]
          phase := nextPhase k } := by
      cases phaseEvent s.config f k <;> rfl
    rw [runSequencer, htick, hparts, hdrop]
    by_cases hlast : k.val + 1 < 42
    · rw [ih _ ⟨k.val + 1, hlast⟩ (by simp; omega) (by simp [nextPhase, hlast])]
      simp [levelsAfter]
    · obtain rfl : n = 0 := by omega
      have hnil : (List.finRange 42).drop (k.val + 1) = [] := by simp; omega
      simp [runSequencer, hnil, nextPhase, hlast, levelsAfter]

/-- All a frame does (41_bus_transport.md R120, R124). -/
theorem frame_eq (a : Addr) (d : Byte) (s : State) :
    frame a d s =
      { s with
        levels := levelsAfter s.levels (frameListing s.config a d)
        trace := s.trace ++ frameListing s.config a d
        phase := .idle } := by
  rw [frame, runSequencer_from _ 42 _ 0 rfl rfl, ← phaseEvents_eq_frameListing]
  rfl

theorem levelsAfter_frameListing (c : BlockConfig) (a : Addr) (d : Byte) (p : PerLine Bool) :
    levelsAfter p (frameListing c a d) = ⟨false, d.getLsbD 7, false⟩ := by
  have h : (frameWord a d).getLsbD 11 = d.getLsbD 7 := by simp [frameWord]
  rw [← h]; rfl

/-! What a meaning can do: it always answers a next state, in one of these forms. -/

theorem execRstimg_eq (s : State) : exec .rstimg s = .next s.loadDefaults := rfl

theorem execWrite_eq (a : Addr) (d : Byte) (s : State) : exec (.write a d) s = .next (frame a d s) := rfl

theorem execApply_cases (r : Addr) (m v : Byte) (s : State) :
    (usedCell r = none ∧ exec (.apply r m v) s = .next (raiseFault .badIndex (encode (.apply r m v)) s)) ∨
    (∃ i, usedCell r = some i ∧ outsideMask m v = true ∧
      exec (.apply r m v) s = .next (raiseFault .valueOutsideMask (encode (.apply r m v)) s)) ∨
    (∃ i, usedCell r = some i ∧ outsideMask m v = false ∧
      exec (.apply r m v) s = .next (s.writeCell i (masked (s.readCell i) m v))) := by
  simp only [exec, execApply]
  cases hu : usedCell r with
  | none => exact .inl ⟨rfl, rfl⟩
  | some i =>
    cases hm : outsideMask m v with
    | true => exact .inr (.inl ⟨i, rfl, rfl, rfl⟩)
    | false => exact .inr (.inr ⟨i, rfl, rfl, rfl⟩)

theorem execCommit_cases (r : Addr) (s : State) :
    (usedCell r = none ∧ exec (.commit r) s = .next (raiseFault .badIndex (encode (.commit r)) s)) ∨
    (∃ i, usedCell r = some i ∧ exec (.commit r) s = .next (frame r (s.readCell i) s)) := by
  simp only [exec, execCommit]
  cases hu : usedCell r with
  | none => exact .inl ⟨rfl, rfl⟩
  | some i => exact .inr ⟨i, rfl, rfl⟩

theorem execRead_cases (r : Addr) (s : State) :
    (readableCell r = none ∧ exec (.read r) s = .next (raiseFault .badIndex (encode (.read r)) s)) ∨
    (∃ i, readableCell r = some i ∧ isReserved i = true ∧
      exec (.read r) s = .next (s.countDraw.perform (.readData i s.nextDraw))) ∨
    (∃ i, readableCell r = some i ∧ isReserved i = false ∧
      exec (.read r) s = .next (s.perform (.readData i (s.readCell i)))) := by
  simp only [exec, execRead]
  cases hu : readableCell r with
  | none => exact .inl ⟨rfl, rfl⟩
  | some i =>
    cases hr : isReserved i with
    | true => exact .inr (.inl ⟨i, rfl, hr, by simp [hr]⟩)
    | false => exact .inr (.inr ⟨i, rfl, hr, by simp [hr]⟩)

/-- The step, by its next input. -/
theorem step_command (s : State) (w : Word) (rest : List Input) (h : s.inputs = .command w :: rest)
    (hr : held s = none) : step s = runWord w { s with inputs := rest } := by
  simp [step, h, hr]

theorem step_held (s : State) (f : Fault) (h : s.inputs = [] ∨ ∃ w rest, s.inputs = .command w :: rest)
    (hr : held s = some f) : step s = .fault f := by
  rcases h with h | ⟨w, rest, h⟩ <;> simp [step, h, hr]

theorem held_eq_none_iff (s : State) : held s = none ↔ s.Ready := by
  unfold held State.Ready
  cases s.fault <;> cases s.phase <;> simp

end Sys2Proof.Machine
end

