-- ==== Sys2Proof/Laws/Run.lean ====
section
/-! SUPPORT. What issuing a sequence of commands does, one command at a time. -/

namespace Sys2Proof.Machine

/-- A meaning neither reads nor changes the inputs. -/
theorem exec_with_inputs (i : Instr) (s t : State) (rest : List Input) (h : exec i s = .next t) :
    exec i { s with inputs := rest } = .next { t with inputs := rest } := by
  cases i with
  | rstimg => cases h; rfl
  | apply r m v =>
    simp only [exec, execApply] at h ⊢
    cases hu : usedCell r <;> cases hm : outsideMask m v <;> simp only [hu, hm] at h ⊢ <;> cases h <;> rfl
  | write a d =>
    simp only [exec, execWrite, frame_eq, Host.Outcome.next.injEq] at h ⊢
    subst h; rfl
  | commit r =>
    simp only [exec, execCommit] at h ⊢
    cases hu : usedCell r <;> simp only [hu, frame_eq, Host.Outcome.next.injEq] at h ⊢ <;> subst h <;> rfl
  | read r =>
    simp only [exec, execRead] at h ⊢
    cases hu : readableCell r with
    | none => simp only [hu] at h ⊢; cases h; rfl
    | some i => cases hm : isReserved i <;> simp only [hu, hm] at h ⊢ <;> cases h <;> rfl

/-- Every meaning answers a next state, whose inputs are the same and whose sequencer is as before or IDLE. -/
theorem exec_next (i : Instr) (s : State) :
    ∃ t, exec i s = .next t ∧ t.inputs = s.inputs ∧ (t.phase = s.phase ∨ t.phase = .idle) := by
  cases i with
  | rstimg => exact ⟨_, rfl, rfl, .inl rfl⟩
  | apply r m v =>
    rcases execApply_cases r m v s with ⟨-, h⟩ | ⟨i, -, -, h⟩ | ⟨i, -, -, h⟩ <;> exact ⟨_, h, rfl, .inl rfl⟩
  | write a d => exact ⟨_, rfl, by rw [frame_eq], .inr (by rw [frame_eq])⟩
  | commit r =>
    rcases execCommit_cases r s with ⟨-, h⟩ | ⟨i, -, h⟩
    · exact ⟨_, h, rfl, .inl rfl⟩
    · exact ⟨_, h, by rw [frame_eq], .inr (by rw [frame_eq])⟩
  | read r =>
    rcases execRead_cases r s with ⟨-, h⟩ | ⟨i, -, -, h⟩ | ⟨i, -, -, h⟩ <;> exact ⟨_, h, by simp, .inl (by simp)⟩

@[simp] theorem runCommands_nil (s : State) : runCommands [] s = .next s := rfl

/-- A block that accepts commands runs the first and goes on with the others. -/
theorem runCommands_cons (i : Instr) (is : List Instr) (s t : State) (hd : decode (encode i) = some i)
    (hr : s.Ready) (h : exec i s = .next t) : runCommands (i :: is) s = runCommands is t := by
  obtain ⟨t', h', hin, -⟩ := exec_next i s
  obtain rfl : t = t' := by rw [h] at h'; exact Host.Outcome.next.inj h'
  have hstep : step (s.enqueue (i :: is)) = .next (t.enqueue is) := by
    rw [step_command (s.enqueue (i :: is)) (encode i) (issued is ++ s.inputs) rfl ((held_eq_none_iff _).2 hr)]
    simp only [runWord, hd]
    have := exec_with_inputs i s t (issued is ++ s.inputs) h
    simpa [State.enqueue, hin] using this
  show Host.Core.run Sys2Proof.core (is.length + 1) (s.enqueue (i :: is)) = _
  simp only [Host.Core.run, Sys2Proof.core, hstep]
  rfl

end Sys2Proof.Machine
end

