-- ==== Sys2Proof/Tests/Slice0.lean ====
section
/-! SUPPORT. The model's own tests. Expected results are those of 95_test_vectors.md (its section is named at each
test), or words written out from 30_encoding.md R83. The last part gives, for every statement with hypotheses, a state
and operands that meet them. The field map `exampleFields` is a test value: the spec leaves every entry OPEN. -/

namespace Sys2Proof.Tests

open Sys2Proof Sys2Proof.Machine

/-! ### Helpers -/

/-- What a function says of the next state, if there is one. -/
def onNext {α : Type} (o : Host.Outcome State Fault Refusal) (f : State → α) : Option α :=
  match o with
  | .next s => some (f s)
  | .fault _ => none
  | .refused _ => none

/-- The reset state with one command word waiting. -/
def presented (w : Word) : State := { State.reset with inputs := [.command w] }

/-- A field map that meets every constraint of 42_host_sequences.md R152. -/
def exampleFields : FieldMap where
  pwrMask := 0x03
  pwrOn := 0x03
  pwrOff := 0x00
  pwrEnableBit := 0
  crystalBit := 1
  muteMask := 0x04
  muteOn := 0x04
  muteOff := 0x00
  inMask := 0x60
  inLow := 0x20
  inMed := 0x40
  inHigh := 0x60
  peMask := 0x18
  peNone := 0x00
  pe50 := 0x08
  pe75 := 0x18
  peEnableBit := 3
  peRegionBit := 4
  outMask := 0x03
  outLow := 0x01
  outMed := 0x02
  outHigh := 0x03
  uldMask := 0x04
  uldOff := 0x00
  uldOn := 0x04
  pilotReg := 1
  pilotMask := 0x01
  pilotOff := 0x00
  pilotOn := 0x01
  subcReg := 2
  subcMask := 0x08
  subcOff := 0x00
  subcOn := 0x08
  cpMask := 0x3F
  cpLow := 0x23
  cpHigh := 0x3C
  cpField := 0x1F
  cpSecondary := 0x20

/-- Parameters of the host sequences for the tests; 14 and 0x05 are P5's example operands. -/
def exampleParams : FacadeParams := ⟨exampleFields, 14, 0x05⟩

/-- A block with a recorded fault and a given list of inputs. -/
def faulted (inputs : List Input) : State :=
  { State.reset with fault := some ⟨.valueOutsideMask, 0x20000304⟩, inputs := inputs }

/-- The reset state with something in the reserved cells. -/
def otherReserved : State := { State.reset with img := #v[0x00, 0xB4, 0x05, 0x8A, 0x2E, 0x77, 0x1A, 0x99, 0x1B] }

/-! ### WellFormed: every check refuses an ill-formed term -/

theorem test_wf_accepts :
    (Instr.apply 8 0x03 0x02).wellFormed = true ∧ (Instr.commit 6).wellFormed = true ∧
    (Instr.read 5).wellFormed = true ∧ (Instr.write 15 0xFF).wellFormed = true ∧
    Instr.rstimg.wellFormed = true := by decide

theorem test_wf_apply_index :
    (Instr.apply 5 0xFF 0x00).wellFormed = false ∧ (Instr.apply 7 0x01 0x01).wellFormed = false ∧
    (Instr.apply 9 0x01 0x01).wellFormed = false := by decide

theorem test_wf_apply_value :
    (Instr.apply 0 0x03 0x04).wellFormed = false ∧ (Instr.apply 8 0xFE 0xFF).wellFormed = false := by decide

theorem test_wf_commit_index :
    (Instr.commit 5).wellFormed = false ∧ (Instr.commit 15).wellFormed = false := by decide

theorem test_wf_read_index : (Instr.read 8).wellFormed = true ∧ (Instr.read 9).wellFormed = false := by decide

theorem test_fields_accepted : exampleFields.wellFormed = true := by decide

theorem test_fields_values_confined : { exampleFields with muteOn := 0x05 }.valuesConfined = false := by decide

theorem test_fields_masks_disjoint :
    { exampleFields with muteMask := 0x06 }.masksDisjoint = false ∧
    { exampleFields with subcReg := 1, subcMask := 0x01 }.masksDisjoint = false := by decide

theorem test_fields_levels_distinct :
    { exampleFields with inHigh := 0x40 }.levelsDistinct = false ∧
    { exampleFields with outLow := 0x02 }.levelsDistinct = false := by decide

theorem test_fields_power_covers :
    { exampleFields with crystalBit := 2 }.powerCovers = false ∧
    { exampleFields with pwrOn := 0x01 }.powerCovers = false := by decide

theorem test_fields_preemph_coded :
    { exampleFields with peNone := 0x08 }.preemphCoded = false ∧
    { exampleFields with pe75 := 0x08 }.preemphCoded = false := by decide

theorem test_fields_secondary_fixed : { exampleFields with cpLow := 0x03 }.secondaryFixed = false := by decide

theorem test_fields_avoid_tuning :
    { exampleFields with pilotReg := 8 }.avoidsTuning = false ∧
    { exampleFields with subcReg := 3 }.avoidsTuning = false := by decide

theorem test_fields_widths :
    { exampleFields with uldMask := 0x0C }.widthsRight = false ∧
    { exampleFields with cpField := 0x0F }.widthsRight = false := by decide

theorem test_fields_registers : { exampleFields with pilotReg := 6 }.registersRight = false := by decide

/-! ### Decode: words written out from 30_encoding.md R83, and 95_test_vectors.md section 2 -/

theorem test_decode_rstimg : decode 0b0001_0000_00000000_00000000_00000000 = some .rstimg := by decide

theorem test_decode_apply :
    decode 0b0010_1000_00000000_00000011_00000010 = some (.apply 8 0x03 0x02) ∧
    decode 0x25000001 = some (.apply 5 0x00 0x01) := by decide

theorem test_decode_write :
    decode 0b0011_1110_00000000_00000000_00000101 = some (.write 14 0x05) ∧
    decode 0x350000A5 = some (.write 5 0xA5) := by decide

theorem test_decode_commit :
    decode 0b0100_1000_00000000_00000000_00000000 = some (.commit 8) ∧
    decode 0x4F000000 = some (.commit 15) := by decide

theorem test_decode_read :
    decode 0b0101_0011_00000000_00000000_00000000 = some (.read 3) ∧ decode 0x59000000 = some (.read 9) := by decide

theorem test_decode_illegal :
    decode 0x10000001 = none ∧ decode 0x18000000 = none ∧ decode 0x28010302 = none ∧ decode 0x3E000105 = none ∧
    decode 0x48000001 = none ∧ decode 0x00000000 = none ∧ decode 0x60000000 = none ∧ decode 0xF000_0000 = none := by
  decide

theorem test_decode_table_word :
    decodeTableWord 32 0x28000302 = some (.apply 8 0x03 0x02) ∧ decodeTableWord 32 0x10000000 = some .rstimg := by
  decide

theorem test_encode :
    encode (.apply 1 0x04 0x00) = 0x21000400 ∧ encode (.write 3 0x8A) = 0x3300008A ∧
    encode (.commit 3) = 0x43000000 ∧ encode (.read 0) = 0x50000000 := by decide

/-! ### Shared operations -/

/-- Section 3: the masked update. -/
theorem test_masked :
    masked 0x1B 0x03 0x02 = 0x1A ∧ masked 0xB4 0x80 0x00 = 0x34 ∧ masked 0xB4 0x00 0x00 = 0xB4 ∧
    masked 0x00 0xFF 0x8A = 0x8A ∧ masked 0x05 0x0C 0x08 = 0x09 ∧ masked 0x1A 0x1F 0x03 = 0x03 ∧
    masked 0xFF 0xF0 0x50 = 0x5F := by decide

/-- Section 5: F and its slots in wire order. -/
theorem test_frame_words :
    frameWord 14 0x05 = 0x05E ∧ frameWord 3 0x8A = 0x8A3 ∧ frameWord 8 0x1A = 0x1A8 ∧ frameWord 0 0x80 = 0x800 ∧
    frameWord 1 0xB4 = 0xB41 ∧ frameWord 5 0xA5 = 0xA55 := by decide

theorem test_frame_slots :
    (List.range 12).map (fun k => (frameWord 1 0xB4).getLsbD k) =
      [true, false, false, false, false, false, true, false, true, true, false, true] := by decide

/-- 60_exceptions.md R202: the codes. -/
theorem test_fault_codes :
    faultCode none = 0 ∧ faultCode (some ⟨.illegalCommand, 0⟩) = 1 ∧ faultCode (some ⟨.badIndex, 0x59000000⟩) = 2 ∧
    faultCode (some ⟨.valueOutsideMask, 0x20000304⟩) = 3 := by decide

/-! ### One step of each command -/

/-- Section 3, last paragraph. -/
theorem test_rstimg_sets_defaults :
    onNext (execRstimg { State.reset with img := #v[1, 2, 3, 0x00, 5, 0x66, 7, 0x77, 0x03] })
      (fun t => t.img.toList) = some [0x00, 0xB4, 0x05, 0x8A, 0x2E, 0x66, 0x1A, 0x77, 0x1B] := by decide

/-- Section 2: the band change. -/
theorem test_apply_band :
    onNext (step (presented 0x28000302)) (fun t => (t.readCell 8, t.readCell 0, t.trace, t.fault)) =
      some (0x1A, 0x00, [], none) := by decide

/-- Section 2: BadIndex has priority, and a faulting APPLY changes nothing. -/
theorem test_apply_faults :
    onNext (step (presented 0x25000001)) (fun t => (t.fault, t.img)) =
      some (some ⟨.badIndex, 0x25000001⟩, State.reset.img) ∧
    onNext (step (presented 0x20000304)) (fun t => (t.fault, t.img)) =
      some (some ⟨.valueOutsideMask, 0x20000304⟩, State.reset.img) := by decide

set_option maxRecDepth 2000 in
/-- Section 5: the full trace of WRITE 3, 0x8A, in three pieces. -/
theorem test_write_trace :
    onNext (step (presented 0x3300008A)) (fun t => t.trace.take 14) = some
      [.drive .latch false, .drive .clk false, .drive .data true, .drive .clk true, .drive .clk false,
       .drive .data true, .drive .clk true, .drive .clk false, .drive .data false, .drive .clk true,
       .drive .clk false, .drive .data false, .drive .clk true, .drive .clk false] ∧
    onNext (step (presented 0x3300008A)) (fun t => (t.trace.drop 14).take 14) = some
      [.drive .data false, .drive .clk true, .drive .clk false, .drive .data true, .drive .clk true,
       .drive .clk false, .drive .data false, .drive .clk true, .drive .clk false, .drive .data true,
       .drive .clk true, .drive .clk false, .drive .data false, .drive .clk true] ∧
    onNext (step (presented 0x3300008A)) (fun t => t.trace.drop 28) = some
      [.drive .clk false, .drive .data false, .drive .clk true, .drive .clk false, .drive .data false,
       .drive .clk true, .drive .clk false, .drive .data true, .drive .clk true, .wait 1,
       .drive .latch true, .wait 4, .drive .latch false, .drive .clk false] := ⟨rfl, rfl, rfl⟩

set_option maxRecDepth 2000 in
/-- Sections 5 and 6: the write log, the lines and the image after WRITE 3, 0x8A and WRITE 15, 0xFF. -/
theorem test_write_log :
    onNext (step (presented 0x3300008A)) (fun t => (writes t.trace, t.levels)) =
      some ([(3, 0x8A)], ⟨false, true, false⟩) ∧
    onNext (step (presented 0x3F0000FF)) (fun t => (writes t.trace, t.img)) =
      some ([(15, 0xFF)], State.reset.img) := ⟨rfl, rfl⟩

set_option maxRecDepth 2000 in
/-- Section 6: COMMIT r3 and COMMIT r0. -/
theorem test_commit_log :
    onNext (step (presented 0x43000000)) (fun t => (writes t.trace, t.img)) =
      some ([(3, 0x8A)], State.reset.img) ∧
    onNext (step (presented 0x40000000)) (fun t => writes t.trace) = some [(0, 0x00)] := ⟨rfl, rfl⟩

/-- Section 6: COMMIT r5. -/
theorem test_commit_fault :
    onNext (step (presented 0x45000000)) (fun t => (t.fault, t.trace)) =
      some (some ⟨.badIndex, 0x45000000⟩, []) := by decide

/-- Section 4: READ r6, and READ r5 reports a draw whatever the cell holds. -/
theorem test_read_events :
    onNext (step (presented 0x56000000)) (fun t => t.trace) = some [.readData 6 0x1A] ∧
    onNext (execRead 5 otherReserved) (fun t => t.trace) = some [.readData 5 (Config.draw 0 0)] := ⟨rfl, rfl⟩

/-- Section 4: READ r9 and r15. -/
theorem test_read_fault :
    onNext (step (presented 0x59000000)) (fun t => (t.fault, t.trace)) =
      some (some ⟨.badIndex, 0x59000000⟩, []) ∧
    onNext (step (presented 0x5F000000)) (fun t => t.fault) = some (some ⟨.badIndex, 0x5F000000⟩) := by decide

/-- Section 9, P7: the all-zero word. -/
theorem test_illegal_word :
    onNext (step (presented 0x00000000)) (fun t => (t.fault, t.img)) =
      some (some ⟨.illegalCommand, 0⟩, State.reset.img) := by decide

/-- Section 7: a faulted block holds every command, RSTIMG too, and block reset clears the fault. -/
theorem test_faulted_block :
    step (faulted [.command 0x00000000]) = .fault .faulted ∧ step (faulted [.command 0x10000000]) = .fault .faulted ∧
    onNext (step (faulted [.blockReset])) (fun t => (t.fault, t.img, t.trace, t.levels)) =
      some (none, State.reset.img, [], ⟨false, false, false⟩) := ⟨rfl, rfl, by decide⟩

/-- 00_scope.md R7: the defaults; and a block with longer waits keeps its own through a block reset. -/
theorem test_configuration :
    tSettle .defaults = 1 ∧ tLatchHigh .defaults = 4 ∧ BlockConfig.defaults.edgeMin = 0 ∧
    onNext (step { State.resetWith ⟨1, 2, 5, 7⟩ with inputs := [.blockReset] }) (fun t => t.config) =
      some ⟨1, 2, 5, 7⟩ := by decide

/-- 41_bus_transport.md R123: consecutive drives with a READ between them, and the two waits of a frame. -/
theorem test_min_duration :
    minDuration ⟨0, 0, 0, 10⟩ [.drive .clk false, .readData 3 0x8A, .drive .latch false] = 20 ∧
    minDuration ⟨0, 2, 0, 10⟩ [.drive .clk true, .wait 3, .drive .latch true] = 3 := by decide

/-- A word placed by `withFetchWord` is what the next step runs. -/
theorem test_with_fetch_word :
    onNext (step (State.reset.withFetchWord 32 0x28000302)) (fun t => t.readCell 8) = some 0x1A := by decide

/-! ### Host sequences and the assembler -/

/-- Section 8. -/
theorem test_bands :
    band 0 = 3 ∧ band 88499999 = 3 ∧ band 88500000 = 2 ∧ band 97899999 = 2 ∧ band 97900000 = 1 ∧
    band 102999999 = 1 ∧ band 103000000 = 0 ∧ band 133913727 = 0 := by decide

/-- Section 8. -/
theorem test_tuning_words :
    tuningWord 0 = 37 ∧ tuningWord 88499999 = 10840 ∧ tuningWord 97300000 = 11914 ∧ tuningWord 107900000 = 13208 ∧
    tuningLow 107900000 = 0x98 ∧ tuningHigh 107900000 = 0x33 ∧ tuningWord 133913727 = 16383 ∧
    admitted 133913727 = true ∧ admitted 133913728 = false := by decide

/-- Section 9, P6: TUNE 97,300,000 without chip reset. -/
theorem test_tune_words :
    (seqTune exampleParams 97300000 false).map (fun is => is.map encode) =
      some [0x28000302, 0x48000000, 0x26003F3C, 0x46000000, 0x2300FF8A, 0x43000000, 0x2400FF2E, 0x44000000,
        0x26003F23, 0x46000000] := by decide

/-- Section 9, P6: the frame addresses of BEGIN. -/
theorem test_begin_frames :
    (seqBegin exampleParams 97300000).map (fun is => is.filterMap fun
      | .write a _ => some a
      | .commit r => some r
      | .rstimg => none
      | .apply _ _ _ => none
      | .read _ => none) = some [14, 1, 2, 2, 2, 8, 6, 3, 4, 6, 0, 0, 0, 0, 14] := by decide

/-- 30_encoding.md R90: the text of the encoded examples of R89, with a comment and an empty line. -/
theorem test_assemble_text :
    (assemble exampleParams "RSTIMG\nAPPLY r8, 0x03, 0x02 ; band 2\n\nCOMMIT r8\nWRITE 14, 5\nREAD r3").map
      (fun is => is.map encode) = some [0x10000000, 0x28000302, 0x48000000, 0x3E000005, 0x53000000] := by decide

/-- 30_encoding.md R90: an operand out of its range is rejected. -/
theorem test_assemble_rejects :
    assemble exampleParams "COMMIT r16" = none ∧ assemble exampleParams "APPLY r0, 256, 0" = none ∧
    assemble exampleParams "WRITE 14, 0x100" = none := by decide

/-! ### Witnesses: states and operands that meet the hypotheses of each statement that has some -/

theorem ready_reset (inputs : List Input) : { State.reset with inputs := inputs }.Ready := ⟨rfl, rfl⟩

theorem atRest_reset (inputs : List Input) : { State.reset with inputs := inputs }.AtRest :=
  ⟨rfl, rfl, rfl, rfl, rfl, rfl⟩

set_option maxRecDepth 4000 in
/-- A block at rest with DATA high and a frame in its trace. -/
theorem test_witness_atRest_after_write :
    ∃ t, exec (.write 3 0x8A) State.reset = .next t ∧ t.levels.data = true ∧ t.AtRest ∧ t.fault = none :=
  ⟨_, rfl, rfl, ⟨rfl, rfl, rfl, rfl, rfl, rfl⟩, rfl⟩

theorem test_witness_DecodeAndEncodeAgree : decode 0x2FFFFFFF = none ∧ decode 0x2F00FFFF = some (.apply 15 0xFF 0xFF) := by
  decide

theorem test_witness_OperandsAreBitSlices :
    decode 0x2F00FFFF = some (.apply 15 0xFF 0xFF) ∧ decode 0x20000000 = some (.apply 0 0 0) ∧
    decode 0x3F0000FF = some (.write 15 0xFF) ∧ decode 0x4F000000 = some (.commit 15) ∧
    decode 0x50000000 = some (.read 0) := by decide

theorem test_witness_IllegalWordsAreTheListedOnes (w : Word) :
    (presented w).inputs = .command w :: [] ∧ (presented w).Ready := ⟨rfl, rfl, rfl⟩

/-- A word for each listed condition, at the ends of its range. -/
theorem test_witness_IllegalWords_conditions :
    (0x0FFFFFFF : Word).toNat / 2 ^ 28 = 0 ∧ (0x60000000 : Word).toNat / 2 ^ 28 = 6 ∧
    (0xFFFFFFFF : Word).toNat / 2 ^ 28 = 15 ∧
    ((0x10000001 : Word).toNat / 2 ^ 28 = 1 ∧ (0x10000001 : Word).toNat % 2 ^ 28 ≠ 0) ∧
    ((0x20800000 : Word).toNat / 2 ^ 28 = 2 ∧ (0x20800000 : Word).toNat / 2 ^ 16 % 2 ^ 8 ≠ 0) ∧
    ((0x30000100 : Word).toNat / 2 ^ 28 = 3 ∧ (0x30000100 : Word).toNat / 2 ^ 8 % 2 ^ 16 ≠ 0) ∧
    ((0x40000001 : Word).toNat / 2 ^ 28 = 4 ∧ (0x40000001 : Word).toNat % 2 ^ 24 ≠ 0) ∧
    ((0x50800000 : Word).toNat / 2 ^ 28 = 5 ∧ (0x50800000 : Word).toNat % 2 ^ 24 ≠ 0) := by decide

theorem test_witness_IllegalWords_legal :
    (0x10000000 : Word).toNat / 2 ^ 28 = 1 ∧ (0x10000000 : Word).toNat % 2 ^ 28 = 0 ∧
    (0x5F000000 : Word).toNat / 2 ^ 28 = 5 ∧ (0x5F000000 : Word).toNat % 2 ^ 24 = 0 := by decide

theorem test_witness_StepRunsTheDecodedCommand :
    (presented 0x28000302).inputs = .command 0x28000302 :: [] ∧ (presented 0x28000302).Ready ∧
    decode 0x28000302 = some (.apply 8 0x03 0x02) := ⟨rfl, ⟨rfl, rfl⟩, by decide⟩

theorem test_witness_IdleBlockStays : State.reset.inputs = [] ∧ State.reset.Ready := ⟨rfl, rfl, rfl⟩

theorem test_witness_SecondHostIsRefused :
    ({ State.reset with inputs := [.secondHost 0x10000000] } : State).inputs = .secondHost 0x10000000 :: [] ∧
    (faulted [.secondHost 0x10000000]).inputs = .secondHost 0x10000000 :: [] := ⟨rfl, rfl⟩

theorem test_witness_BlockReset :
    (faulted [.blockReset, .command 0x10000000]).inputs = .blockReset :: [.command 0x10000000] ∧
    (5 : Addr).toNat = (5 : CellIndex).val ∧ (7 : Addr).toNat = (7 : CellIndex).val := ⟨rfl, rfl, rfl⟩

theorem test_witness_StepKeepsTheRestCondition :
    (presented 0x3300008A).AtRest ∧ ∃ t, step (presented 0x3300008A) = .next t := ⟨atRest_reset _, _, rfl⟩

theorem test_witness_DefaultImage :
    exampleParams.fields.wellFormed = true ∧
    ∃ t, runCommands (tuneSteps exampleParams 97300000 false) State.reset = .next t := ⟨by decide, _, rfl⟩

theorem test_witness_RstimgSetsTheDefaults :
    (0x10000001 : Word).toNat / 2 ^ 28 = 1 ∧ (0x10000001 : Word) ≠ 0x10000000 := by decide

/-- Indices at the ends of the ranges, a value in the mask and one outside it. -/
theorem test_witness_ApplyUpdatesTheMaskedBits :
    (5 : Addr).toNat = 5 ∧ (7 : Addr).toNat = 7 ∧ 9 ≤ (9 : Addr).toNat ∧ 9 ≤ (15 : Addr).toNat ∧
    (0 : Addr).toNat = (0 : CellIndex).val ∧ (8 : Addr).toNat = (8 : CellIndex).val ∧
    (0x04 : Byte) &&& ~~~0x03 ≠ 0 ∧ (0x02 : Byte) &&& ~~~0x03 = 0 ∧
    (0x28010302 : Word).toNat / 2 ^ 28 = 2 ∧ (0x28010302 : Word).toNat / 2 ^ 16 % 2 ^ 8 ≠ 0 ∧
    State.reset.readCell 8 = 0x1B := by decide

/-- Same cell with disjoint masks, same cell with overlapping masks, different cells. -/
theorem test_witness_ApplyLaws :
    State.reset.Ready ∧ (Instr.apply 1 0x04 0x00).wellFormed = true ∧ (Instr.apply 1 0x80 0x00).wellFormed = true ∧
    (0x04 : Byte) &&& 0x80 = 0 ∧ (Instr.apply 1 0x0F 0x05).wellFormed = true ∧
    (Instr.apply 8 0x03 0x02).wellFormed = true ∧ (1 : Addr) ≠ 8 := ⟨⟨rfl, rfl⟩, by decide⟩

theorem test_witness_ReadReportsTheCell :
    9 ≤ (9 : Addr).toNat ∧ 9 ≤ (15 : Addr).toNat ∧ (0 : Addr).toNat = (0 : CellIndex).val ∧
    (8 : Addr).toNat = (8 : CellIndex).val ∧ (5 : Addr).toNat = (5 : CellIndex).val ∧
    (7 : Addr).toNat = (7 : CellIndex).val ∧
    (0x50000001 : Word).toNat / 2 ^ 28 = 5 ∧ (0x50000001 : Word).toNat % 2 ^ 24 ≠ 0 := by decide

theorem test_witness_EveryBitOfAUsedCell :
    (0 : Addr).toNat = (0 : CellIndex).val ∧ (8 : Addr).toNat = (8 : CellIndex).val ∧ (8 : CellIndex) ≠ 5 ∧
    (8 : CellIndex) ≠ 7 := by decide

theorem test_witness_ReservedCellsAreNeverWritten :
    (∃ t, exec .rstimg otherReserved = .next t) ∧ (∃ t, exec (.apply 5 0xFF 0x00) otherReserved = .next t) :=
  ⟨⟨_, rfl⟩, ⟨_, rfl⟩⟩

theorem test_witness_ReservedContents_next :
    SameButReserved State.reset otherReserved ∧ State.reset.img ≠ otherReserved.img ∧
    (∃ t, step State.reset = .next t) := ⟨⟨rfl, by decide⟩, by decide, _, rfl⟩

theorem test_witness_ReservedContents_stops :
    SameButReserved (faulted []) { faulted [] with img := otherReserved.img } ∧
    step (faulted []) = .fault .faulted ∧
    step { faulted [] with inputs := [.secondHost 0] } = .refused .secondHost := ⟨⟨rfl, by decide⟩, rfl, rfl⟩

theorem test_witness_WriteSendsOneFrame :
    (0x3E000105 : Word).toNat / 2 ^ 28 = 3 ∧ (0x3E000105 : Word).toNat / 2 ^ 8 % 2 ^ 16 ≠ 0 ∧
    ∃ t, exec (.write 15 0xFF) State.reset = .next t ∧ ∃ u, exec (.write 15 0xFF) t = .next u :=
  ⟨by decide, by decide, _, rfl, _, rfl⟩

theorem test_witness_CommitSendsTheCell :
    ((0x48000001 : Word).toNat / 2 ^ 28 = 4 ∧ (0x48000001 : Word).toNat % 2 ^ 24 ≠ 0) ∧
    ((8 : Addr).toNat = (8 : CellIndex).val ∧ (0 : Addr).toNat = (0 : CellIndex).val) ∧
    (∃ t, exec (.commit 8) State.reset = .next t ∧ ∃ u, exec (.commit 8) t = .next u) ∧
    (∃ t, exec .rstimg State.reset = .next t ∧ ∃ u, exec (.commit 3) t = .next u) :=
  ⟨by decide, by decide, ⟨_, rfl, _, rfl⟩, ⟨_, rfl, _, rfl⟩⟩

/-- The first and the last DATA drive of a frame. -/
theorem test_witness_DataIsValid :
    State.reset.levels.clk = false ∧ (frameListing .defaults 3 0x8A)[2]? = some (.drive .data true) ∧
    (frameListing .defaults 3 0x8A)[35]? = some (.drive .data true) := ⟨rfl, rfl, rfl⟩

theorem test_witness_WriteLog :
    State.reset.AtRest ∧ (∃ t, exec (.write 5 0xA5) State.reset = .next t) ∧
    (∃ t, exec (.commit 8) State.reset = .next t) ∧ (8 : Addr).toNat = (8 : CellIndex).val ∧
    (∃ t, exec (.commit 9) State.reset = .next t) ∧ 9 ≤ (9 : Addr).toNat ∧
    (∃ t, exec (.read 5) State.reset = .next t) :=
  ⟨⟨rfl, rfl, rfl, rfl, rfl, rfl⟩, ⟨_, rfl⟩, ⟨_, rfl⟩, rfl, ⟨_, rfl⟩, by decide, ⟨_, rfl⟩⟩

/-- For `WriteDivergesFromTheImage`, `ReadAndCommitSeeTheApply` and `SetUpdatesAndSendsOneFrame`. -/
theorem test_witness_ready_used_cell :
    State.reset.Ready ∧ (0 : Addr).toNat = (0 : CellIndex).val ∧ (8 : Addr).toNat = (8 : CellIndex).val ∧
    (8 : CellIndex) ≠ 5 ∧ (8 : CellIndex) ≠ 7 ∧ (0x02 : Byte) &&& ~~~0x03 = 0 := ⟨⟨rfl, rfl⟩, by decide⟩

theorem test_witness_SideEffects :
    State.reset.phase = .idle ∧ State.reset.fault = none ∧
    (∃ t, exec .rstimg State.reset = .next t ∧ t.fault = State.reset.fault) ∧
    (∃ t, exec (.apply 8 0x03 0x02) State.reset = .next t ∧ t.fault = State.reset.fault) ∧
    (∃ t, exec (.read 7) State.reset = .next t ∧ t.fault = State.reset.fault) ∧
    (∃ t, exec (.write 15 0) State.reset = .next t ∧ t.fault = State.reset.fault) ∧
    (∃ t, exec (.commit 8) State.reset = .next t ∧ t.fault = State.reset.fault) :=
  ⟨rfl, rfl, ⟨_, rfl, rfl⟩, ⟨_, rfl, rfl⟩, ⟨_, rfl, rfl⟩, ⟨_, rfl, rfl⟩, ⟨_, rfl, rfl⟩⟩

theorem test_witness_CommandsOnlyAppend :
    (∃ t, step (presented 0x3E000005) = .next t) ∧ ∀ rest, (presented 0x3E000005).inputs ≠ .blockReset :: rest :=
  ⟨⟨_, rfl⟩, fun _ h => by cases h⟩

theorem test_witness_OnlyIllFormedCommandsFault :
    State.reset.Ready ∧ (Instr.apply 8 0x03 0x02).wellFormed = true ∧ (Instr.read 9).wellFormed = false :=
  ⟨⟨rfl, rfl⟩, by decide⟩

theorem test_witness_WellFormedSequences :
    State.reset.Ready ∧ ∀ i ∈ ([.rstimg, .apply 8 0x03 0x02, .commit 8, .read 8] : List Instr), i.wellFormed = true :=
  ⟨⟨rfl, rfl⟩, by decide⟩

/-- A word for each kind of fault. -/
theorem test_witness_FaultKinds :
    (∃ t, step (presented 0) = .next t ∧ t.fault = some ⟨.illegalCommand, 0⟩) ∧
    (∃ t, step (presented 0x4F000000) = .next t ∧ t.fault = some ⟨.badIndex, 0x4F000000⟩) ∧
    (∃ t, step (presented 0x2800FEFF) = .next t ∧ t.fault = some ⟨.valueOutsideMask, 0x2800FEFF⟩) :=
  ⟨⟨_, rfl, rfl⟩, ⟨_, rfl, rfl⟩, ⟨_, rfl, rfl⟩⟩

/-- For `BadIndexIsRaisedExactlyThere` and `ValueOutsideMaskIsRaisedExactlyThere`. -/
theorem test_witness_noFault : State.reset.fault = none ∧ (8 : Addr) ∈ ([0, 1, 2, 3, 4, 6, 8] : List Addr) := by decide

theorem test_witness_FaultPriority :
    (presented 0x25000001).Ready ∧ decode 0 = none ∧ decode 0x25000001 = some (.apply 5 0x00 0x01) ∧
    (0x01 : Byte) &&& ~~~0x00 ≠ 0 ∧ decode 0x2F000001 = some (.apply 15 0x00 0x01) := ⟨⟨rfl, rfl⟩, by decide⟩

theorem test_witness_RaisingAFault :
    ∃ s t, s = { State.reset with inputs := [.command 0, .command 0x10000000] } ∧ s.Ready ∧ step s = .next t ∧
      t.fault ≠ none := ⟨_, _, rfl, ⟨rfl, rfl⟩, rfl, by decide⟩

theorem test_witness_FaultedBlockIsStuck :
    (faulted [.command 0x10000000]).fault = some ⟨.valueOutsideMask, 0x20000304⟩ ∧ (faulted []).inputs = [] ∧
    ∃ t, step (faulted [.blockReset]) = .next t := ⟨rfl, rfl, _, rfl⟩

theorem test_witness_RstimgIsNotBlockReset :
    (faulted [.command (encode .rstimg)]).fault = some ⟨.valueOutsideMask, 0x20000304⟩ ∧
    (faulted [.command (encode .rstimg)]).inputs = .command (encode .rstimg) :: [] := ⟨rfl, rfl⟩

theorem test_witness_TuningWordAndAdmission :
    admitted 0 = true ∧ admitted 133913727 = true ∧ 133913727 < 133913728 := by decide

/-- For `UnrecognisedOptionStillSends`: every pair of its list, PILOT and SUBC with two different cells. -/
theorem test_witness_UnrecognisedOption :
    exampleParams.fields.wellFormed = true ∧
    [seqInLevel exampleParams .other, seqPreemph exampleParams .other, seqOutLevel exampleParams .other,
      seqUnlockDetect exampleParams .other, seqPilot exampleParams .other, seqSubcarrier exampleParams .other] =
      [[.commit 0], [.commit 0], [.commit 2], [.commit 2], [.commit 1], [.commit 2]] ∧
    exampleParams.fields.pilotReg = 1 ∧ exampleParams.fields.subcReg = 2 := by decide

/-- For `EverySetterUpdatesAndSendsItsCell`: a row with an update, one without, in cells that the field map names. -/
theorem test_witness_EverySetter :
    ⟨seqSubcarrier exampleParams .enabled, 2, some (0x08, 0x08)⟩ ∈ setterTable exampleParams ∧
    ⟨seqPilot exampleParams .other, 1, none⟩ ∈ setterTable exampleParams ∧
    (setters exampleParams).length = 27 := by decide

theorem test_witness_ManualResets : State.reset.Ready ∧ seqFullReset = [.rstimg] := ⟨⟨rfl, rfl⟩, rfl⟩

theorem test_witness_ConfigurationIsFixed :
    (∃ t, step (presented 0x3300008A) = .next t) ∧ (∃ t, step (faulted [.blockReset]) = .next t) :=
  ⟨⟨_, rfl⟩, ⟨_, rfl⟩⟩

/-- Two instances, named apart and with different timing, the first about to run a command. -/
def twoInstances : Vector Instance 2 :=
  #v[⟨⟨2, 3, 4⟩, exampleParams, presented 0x28000302⟩,
     ⟨⟨5, 6, 7⟩, exampleParams, State.resetWith ⟨1, 2, 0, 3⟩⟩]

theorem test_witness_InstancesAreIndependent :
    (∃ ys, stepInstance 0 twoInstances = .next ys) ∧ (∃ zs, stepInstance 1 twoInstances = .next zs) ∧
    NamedApart twoInstances := ⟨⟨_, rfl⟩, ⟨_, rfl⟩, by unfold NamedApart; decide⟩

/-- For every statement about the host sequences: a well-formed field map, a frequency, a state at rest, a setter. -/
theorem test_witness_HostSequences :
    exampleParams.fields.wellFormed = true ∧ admitted 97300000 = true ∧ State.reset.AtRest ∧
    State.reset.fault = none ∧ seqInLevel exampleParams .other ∈ setters exampleParams ∧
    seqPowerOn exampleParams ∈ setters exampleParams :=
  ⟨by decide, by decide, ⟨rfl, rfl, rfl, rfl, rfl, rfl⟩, rfl, by decide, by decide⟩

theorem test_witness_FacadeCommands :
    (∃ is, seqTune exampleParams 97300000 true = some is) ∧ (∃ is, seqBegin exampleParams 133913727 = some is) :=
  ⟨⟨_, rfl⟩, ⟨_, rfl⟩⟩

/-- The ends of the operand ranges, on both sides. -/
theorem test_witness_AssemblerChecksOperandRanges :
    expand exampleParams (.apply 15 255 255) = some [.apply 15 0xFF 0xFF] ∧
    expand exampleParams (.apply 16 255 255) = none ∧ expand exampleParams (.apply 15 256 0) = none ∧
    expand exampleParams (.apply 15 0 256) = none ∧ expand exampleParams (.write 16 0) = none ∧
    expand exampleParams (.write 15 256) = none ∧ expand exampleParams (.commit 16) = none ∧
    expand exampleParams (.read 16) = none := by decide

end Sys2Proof.Tests
end

section
/-! SUPPORT. The trace only grows (10_state.md R46): what a step can do, what each command appends, and from these the
statement. -/

namespace Sys2Proof.Machine

/-- Everything a step that answers a next state can have done, by its next input. -/
theorem step_next_cases {s t : State} (h : step s = .next t) :
    (∃ rest, s.inputs = .blockReset :: rest ∧ t = blockReset { s with inputs := rest }) ∨
    (∃ w rest, s.inputs = .command w :: rest ∧ s.Ready ∧ runWord w { s with inputs := rest } = .next t) ∨
    (s.inputs = [] ∧ s.Ready ∧ t = s) := by
  rw [← held_eq_none_iff]
  cases hin : s.inputs with
  | nil =>
    cases hh : held s with
    | none => exact .inr (.inr ⟨rfl, rfl, by simpa [step, hin, hh] using h.symm⟩)
    | some f => simp [step_held s f (.inl hin) hh] at h
  | cons input rest =>
    cases input with
    | blockReset => exact .inl ⟨rest, rfl, by simpa [step, hin] using h.symm⟩
    | secondHost w => simp [step, hin] at h
    | command w =>
      cases hh : held s with
      | none => exact .inr (.inl ⟨w, rest, rfl, rfl, by rwa [step_command s w rest hin hh] at h⟩)
      | some f => simp [step_held s f (.inr ⟨w, rest, hin⟩) hh] at h

/-- A command word runs the command it decodes to, or raises IllegalCommand (60_exceptions.md R203). -/
theorem runWord_next_cases {w : Word} {s t : State} (h : runWord w s = .next t) :
    (∃ i, decode w = some i ∧ exec i s = .next t) ∨
    (decode w = none ∧ t = raiseFault .illegalCommand w s) := by
  cases hd : decode w with
  | some i => exact .inl ⟨i, rfl, by simpa [runWord, hd] using h⟩
  | none => exact .inr ⟨rfl, by simpa [runWord, hd] using h.symm⟩

@[simp] theorem frame_trace (a : Addr) (d : Byte) (s : State) :
    (frame a d s).trace = s.trace ++ frameListing s.config a d := by
  rw [frame_eq]

/-- RSTIMG, APPLY and a raised fault append nothing, WRITE and COMMIT one frame, READ one event. -/
theorem exec_trace_append {i : Instr} {s t : State} (h : exec i s = .next t) : ∃ es, t.trace = s.trace ++ es := by
  cases i with
  | rstimg =>
    cases h
    exact ⟨[], by simp⟩
  | apply r m v =>
    rcases execApply_cases r m v s with ⟨-, he⟩ | ⟨i, -, -, he⟩ | ⟨i, -, -, he⟩ <;>
      obtain rfl := Host.Outcome.next.inj (he.symm.trans h) <;> exact ⟨[], by simp⟩
  | write a d =>
    obtain rfl := Host.Outcome.next.inj h
    exact ⟨_, frame_trace a d s⟩
  | commit r =>
    rcases execCommit_cases r s with ⟨-, he⟩ | ⟨i, -, he⟩ <;>
      obtain rfl := Host.Outcome.next.inj (he.symm.trans h)
    · exact ⟨[], by simp⟩
    · exact ⟨_, frame_trace r _ s⟩
  | read r =>
    rcases execRead_cases r s with ⟨-, he⟩ | ⟨i, -, -, he⟩ | ⟨i, -, -, he⟩ <;>
      obtain rfl := Host.Outcome.next.inj (he.symm.trans h)
    · exact ⟨[], by simp⟩
    · exact ⟨[.readData i s.nextDraw], by simp⟩
    · exact ⟨[.readData i (s.readCell i)], by simp⟩

theorem runWord_trace_append {w : Word} {s t : State} (h : runWord w s = .next t) :
    ∃ es, t.trace = s.trace ++ es := by
  rcases runWord_next_cases h with ⟨i, -, he⟩ | ⟨-, rfl⟩
  · exact exec_trace_append he
  · exact ⟨[], by simp⟩

/-- Settles O32, by the cases of a step: only a block reset, which is excluded, clears the trace. -/
theorem commandsOnlyAppendToTheTrace : Obligations.CommandsOnlyAppendToTheTrace := by
  refine ⟨State.resetWith_trace, fun s t h hreset => ?_⟩
  rcases step_next_cases h with ⟨rest, hin, -⟩ | ⟨w, rest, -, -, hw⟩ | ⟨-, -, rfl⟩
  · exact absurd hin (hreset rest)
  · exact runWord_trace_append (s := { s with inputs := rest }) hw
  · exact ⟨[], (List.append_nil _).symm⟩

end Sys2Proof.Machine
end

section
/-! SUPPORT. An accepted command word that decodes is executed to completion in its step (30_encoding.md R84). -/

namespace Sys2Proof.Machine

theorem runWord_of_decode {w : Word} {i : Instr} (h : decode w = some i) (s : State) : runWord w s = exec i s := by
  simp [runWord, h]

theorem step_of_decode {s : State} {w : Word} {rest : List Input} {i : Instr} (hin : s.inputs = .command w :: rest)
    (hready : s.Ready) (hd : decode w = some i) : step s = exec i { s with inputs := rest } :=
  (step_command s w rest hin ((held_eq_none_iff s).2 hready)).trans (runWord_of_decode hd _)

/-- Settles O6, since every meaning answers a next state and from an idle sequencer leaves it idle. -/
theorem stepRunsTheDecodedCommand : Obligations.StepRunsTheDecodedCommand := by
  intro s w rest i hin hready hd
  have hstep := step_of_decode hin hready hd
  obtain ⟨t, hexec, hinputs, hphase⟩ := exec_next i { s with inputs := rest }
  have hidle : t.phase = .idle := hphase.elim (·.trans hready.2) id
  exact ⟨hstep, t, hstep.trans hexec, hinputs, hidle⟩

end Sys2Proof.Machine
end

section
/-! SUPPORT. A command word as a number: its fields are digits of it (30_encoding.md R83), and the decoder reads them by
division and remainder (R87). -/

namespace Sys2Proof

theorem toNat_append_eq_add {m n : Nat} (x : BitVec m) (y : BitVec n) :
    (x ++ y).toNat = x.toNat * 2 ^ n + y.toNat := by
  rw [BitVec.toNat_append, ← Nat.shiftLeft_add_eq_or_of_lt y.isLt, Nat.shiftLeft_eq]

theorem commandWord_toNat (op : BitVec 4) (r : Addr) (m v : Byte) :
    (commandWord op r m v).toNat = op.toNat * 2 ^ 28 + r.toNat * 2 ^ 24 + m.toNat * 2 ^ 8 + v.toNat := by
  simp only [commandWord, toNat_append_eq_add, BitVec.toNat_ofNat]
  omega

theorem opField_toNat (w : Word) : (opField w).toNat = w.toNat / 2 ^ 28 := by
  have := w.isLt
  simp only [opField, BitVec.extractLsb'_toNat, Nat.shiftRight_eq_div_pow]
  omega

theorem extractLsb'_eq_zero_iff (w : Word) (k n : Nat) :
    w.extractLsb' k n = 0 ↔ w.toNat / 2 ^ k % 2 ^ n = 0 := by
  simp [← BitVec.toNat_inj, Nat.shiftRight_eq_div_pow]

/-! The bits that must be 0 (30_encoding.md R87), for the opcodes of the Register Image commands. -/

theorem decode_of_opcode_rstimg {w : Word} (hop : w.toNat / 2 ^ 28 = 1) (hbits : w.toNat % 2 ^ 28 ≠ 0) :
    decode w = none := by
  have hzero : ¬w.extractLsb' 0 28 = 0 := by rwa [extractLsb'_eq_zero_iff, pow_zero, Nat.div_one]
  rw [decode, opField_toNat, hop]
  exact if_neg hzero

theorem decode_of_opcode_apply {w : Word} (hop : w.toNat / 2 ^ 28 = 2) (hbits : w.toNat / 2 ^ 16 % 2 ^ 8 ≠ 0) :
    decode w = none := by
  have hzero : ¬w.extractLsb' 16 8 = 0 := by rwa [extractLsb'_eq_zero_iff]
  rw [decode, opField_toNat, hop]
  exact if_neg hzero

theorem decode_of_opcode_read {w : Word} (hop : w.toNat / 2 ^ 28 = 5) (hbits : w.toNat % 2 ^ 24 ≠ 0) :
    decode w = none := by
  have hzero : ¬w.extractLsb' 0 24 = 0 := by rwa [extractLsb'_eq_zero_iff, pow_zero, Nat.div_one]
  rw [decode, opField_toNat, hop]
  exact if_neg hzero

end Sys2Proof
end

section
/-! SUPPORT. The Register Image commands as equations, one for each way they can end (40_register_image.md R101, R104,
R106): a command's cases are decided by what its operands are. -/

namespace Sys2Proof.Machine

theorem isReserved_eq_true_iff (i : CellIndex) : isReserved i = true ↔ i = 5 ∨ i = 7 := by
  simp [isReserved]

theorem isReserved_eq_false {i : CellIndex} (h5 : i ≠ 5) (h7 : i ≠ 7) : isReserved i = false := by
  simp [isReserved, h5, h7]

theorem usedCell_eq_some {r : Addr} {i : CellIndex} (hr : r.toNat = i.val) (h5 : i ≠ 5) (h7 : i ≠ 7) :
    usedCell r = some i :=
  (usedCell_eq_some_iff r i).2 ⟨hr, isReserved_eq_false h5 h7⟩

theorem isReserved_of_defaultCell_eq_some {i : CellIndex} {v : Byte} (h : defaultCell i = some v) :
    isReserved i = false := by
  by_contra hres
  rcases (isReserved_eq_true_iff i).1 (by simpa using hres) with rfl | rfl <;> cases h

theorem outsideMask_eq_true_iff (m v : Byte) : outsideMask m v = true ↔ v &&& ~~~m ≠ 0 := by
  simp [outsideMask]

theorem outsideMask_eq_false_iff (m v : Byte) : outsideMask m v = false ↔ v &&& ~~~m = 0 := by
  simp [outsideMask]

/-! READ. -/

theorem execRead_badIndex {r : Addr} (h : 9 ≤ r.toNat) (s : State) :
    exec (.read r) s = .next (raiseFault .badIndex (encode (.read r)) s) := by
  simp only [exec, execRead, (readableCell_eq_none_iff r).2 h]

theorem execRead_used {r : Addr} {i : CellIndex} (hr : r.toNat = i.val) (hi : isReserved i = false) (s : State) :
    exec (.read r) s = .next (s.emit (.readData i (s.readCell i))) := by
  simp [exec, execRead, (readableCell_eq_some_iff r i).2 hr, hi, State.perform]

theorem execRead_reserved {r : Addr} {i : CellIndex} (hr : r.toNat = i.val) (hi : isReserved i = true) (s : State) :
    exec (.read r) s = .next (s.countDraw.emit (.readData i s.nextDraw)) := by
  simp [exec, execRead, (readableCell_eq_some_iff r i).2 hr, hi, State.perform]

/-! RSTIMG. -/

@[simp] theorem State.loadDefaults_loadDefaults (s : State) : s.loadDefaults.loadDefaults = s.loadDefaults := by
  have himg : s.loadDefaults.loadDefaults.img = s.loadDefaults.img := by
    ext k hk
    cases h : defaultCell ⟨k, hk⟩ <;> simp [h]
  exact congrArg (fun img => { s with img := img }) himg

theorem execRead_loadDefaults {r : Addr} {i : CellIndex} {v : Byte} (hr : r.toNat = i.val)
    (hv : defaultCell i = some v) (s : State) :
    exec (.read r) s.loadDefaults = .next (s.loadDefaults.emit (.readData i v)) := by
  rw [execRead_used hr (isReserved_of_defaultCell_eq_some hv), readCell_loadDefaults, hv, Option.getD_some]

/-! APPLY. -/

theorem execApply_badIndex {r : Addr} (h : r.toNat = 5 ∨ r.toNat = 7 ∨ 9 ≤ r.toNat) (m v : Byte) (s : State) :
    exec (.apply r m v) s = .next (raiseFault .badIndex (encode (.apply r m v)) s) := by
  simp only [exec, execApply, (usedCell_eq_none_iff r).2 h]

theorem execApply_outsideMask {r : Addr} {i : CellIndex} (hu : usedCell r = some i) {m v : Byte}
    (hv : v &&& ~~~m ≠ 0) (s : State) :
    exec (.apply r m v) s = .next (raiseFault .valueOutsideMask (encode (.apply r m v)) s) := by
  simp [exec, execApply, hu, (outsideMask_eq_true_iff m v).2 hv]

theorem execApply_confined {r : Addr} {i : CellIndex} (hu : usedCell r = some i) {m v : Byte}
    (hv : v &&& ~~~m = 0) (s : State) :
    exec (.apply r m v) s = .next (s.writeCell i (masked (s.readCell i) m v)) := by
  simp [exec, execApply, hu, (outsideMask_eq_false_iff m v).2 hv]

end Sys2Proof.Machine
end

section
/-! SUPPORT. The masked update with a confined value (40_register_image.md R102, R103): each bit comes from the value
where the mask selects it and from the old byte elsewhere. -/

namespace Sys2Proof.Machine

variable {m v : Byte}

theorem getLsbD_eq_false_of_confined (hv : v &&& ~~~m = 0) {k : Nat} (hm : m.getLsbD k = false) :
    v.getLsbD k = false := by
  rcases Nat.lt_or_ge k 8 with hk | hk
  · have hbit : (v &&& ~~~m).getLsbD k = false := hv ▸ BitVec.getLsbD_zero
    simpa only [BitVec.getLsbD_and, BitVec.getLsbD_not, hk, hm, decide_true, Bool.not_false, Bool.and_true] using hbit
  · exact BitVec.getLsbD_of_ge _ _ hk

theorem masked_getLsbD_of_confined (hv : v &&& ~~~m = 0) (old : Byte) (k : Nat) :
    (masked old m v).getLsbD k = if m.getLsbD k then v.getLsbD k else old.getLsbD k := by
  rw [masked_getLsbD]
  cases hm : m.getLsbD k with
  | true => simp
  | false => simp [getLsbD_eq_false_of_confined hv hm]

theorem eq_zero_of_confined_zero (hv : v &&& ~~~(0 : Byte) = 0) : v = 0 :=
  BitVec.and_allOnes.symm.trans hv

theorem masked_zero (old : Byte) : masked old 0 0 = old :=
  BitVec.or_zero.trans BitVec.and_allOnes

theorem masked_allOnes (old v : Byte) : masked old 0xFF v = v := by
  have hnone : old &&& ~~~(0xFF : Byte) = 0 := BitVec.and_zero
  rw [masked, hnone]
  exact BitVec.zero_or

/-- The selected bits of the new byte are the value. -/
theorem masked_and_mask (hv : v &&& ~~~m = 0) (old : Byte) : masked old m v &&& m = v := by
  apply BitVec.eq_of_getLsbD_eq
  intro k _
  rw [BitVec.getLsbD_and, masked_getLsbD_of_confined hv]
  cases hm : m.getLsbD k with
  | true => simp
  | false => simp [getLsbD_eq_false_of_confined hv hm]

end Sys2Proof.Machine
end

section
/-! SUPPORT. The statements about RSTIMG, APPLY and READ (40_register_image.md R101, R104, R106). -/

namespace Sys2Proof.Machine

/-- Settles O14: a word of RSTIMG's opcode other than its own has a bit set below it, and loading the defaults twice is
loading them once. -/
theorem rstimgSetsTheDefaults : Obligations.RstimgSetsTheDefaults := by
  refine ⟨by decide, fun w hop hne => ?_, fun s => ?_⟩
  · have hbits : w.toNat % 2 ^ 28 ≠ 0 := by bv_omega
    exact decode_of_opcode_rstimg hop hbits
  · have hcell := readCell_loadDefaults s
    have hagain : exec .rstimg s.loadDefaults = .next s.loadDefaults := by
      rw [execRstimg_eq, State.loadDefaults_loadDefaults]
    exact ⟨s.loadDefaults, rfl, hcell 0, hcell 1, hcell 2, hcell 3, hcell 4, hcell 6, hcell 8, hcell 5, hcell 7, rfl,
      hagain, _, execRead_loadDefaults rfl rfl s, rfl⟩

/-- Settles O15, by what the index names and whether the value is confined to the mask. -/
theorem applyUpdatesTheMaskedBits : Obligations.ApplyUpdatesTheMaskedBits := by
  refine ⟨commandWord_toNat 2, fun w => decode_of_opcode_apply, fun r m v s hr => execApply_badIndex hr m v s,
    fun r m v s i hr h5 h7 hv => ?_, fun r m v s i hr h5 h7 hv => ?_, fun s h8 => ?_⟩
  · exact execApply_outsideMask (usedCell_eq_some hr h5 h7) hv s
  · have hexec := execApply_confined (usedCell_eq_some hr h5 h7) hv s
    have hcell := readCell_writeCell_same s i (masked (s.readCell i) m v)
    refine ⟨_, hexec, rfl, hcell, fun j hj => readCell_writeCell_other s hj _, fun k _ => ?_, ?_, ?_, ?_, ?_⟩ <;>
      rw [hcell]
    · exact masked_getLsbD_of_confined hv _ k
    · rintro rfl
      obtain rfl := eq_zero_of_confined_zero hv
      exact ⟨rfl, masked_zero _⟩
    · rintro rfl
      exact masked_allOnes _ v
    · rintro rfl
      exact masked_and_mask hv _
    · rintro rfl
      exact masked_and_mask hv _
  · refine ⟨_, execApply_confined (i := 8) rfl rfl s, ?_⟩
    rw [readCell_writeCell_same, h8]
    rfl

/-- Settles O17, by what the index names: no cell, a used cell, a reserved cell. -/
theorem readReportsTheCell : Obligations.ReadReportsTheCell := by
  refine ⟨fun r => ?_, fun w => decode_of_opcode_read, fun r s hr => execRead_badIndex hr s,
    fun r s i hr h5 h7 => execRead_used hr (isReserved_eq_false h5 h7) s, fun r s i hr hi => ?_, fun s t h => ?_⟩
  · simp [encode, commandWord_toNat]
  · exact ⟨_, s.draws, execRead_reserved hr ((isReserved_eq_true_iff i).2 hi) s, rfl⟩
  · obtain rfl := Host.Outcome.next.inj ((execRstimg_eq s).symm.trans h)
    exact ⟨_, execRead_loadDefaults rfl rfl s, rfl⟩

end Sys2Proof.Machine
end

section
/-! SUPPORT. The bits that must be 0 (30_encoding.md R87), for the opcodes of the Bus Transport commands, and a frame's
slots as bits of its address and payload (30_encoding.md R81). -/

namespace Sys2Proof

theorem decode_of_opcode_write {w : Word} (hop : w.toNat / 2 ^ 28 = 3) (hbits : w.toNat / 2 ^ 8 % 2 ^ 16 ≠ 0) :
    decode w = none := by
  have hzero : ¬w.extractLsb' 8 16 = 0 := by rwa [extractLsb'_eq_zero_iff]
  rw [decode, opField_toNat, hop]
  exact if_neg hzero

theorem decode_of_opcode_commit {w : Word} (hop : w.toNat / 2 ^ 28 = 4) (hbits : w.toNat % 2 ^ 24 ≠ 0) :
    decode w = none := by
  have hzero : ¬w.extractLsb' 0 24 = 0 := by rwa [extractLsb'_eq_zero_iff, pow_zero, Nat.div_one]
  rw [decode, opField_toNat, hop]
  exact if_neg hzero

namespace Machine

theorem frameWord_getLsbD_addr (a : Addr) (d : Byte) {k : Nat} (hk : k < 4) :
    (frameWord a d).getLsbD k = a.getLsbD k := by
  have h12 : k < 12 := by omega
  simp [frameWord, hk, h12]

theorem frameWord_getLsbD_data (a : Addr) (d : Byte) {k : Nat} (hk : k < 8) :
    (frameWord a d).getLsbD (4 + k) = d.getLsbD k := by
  have h12 : 4 + k < 12 := by omega
  simp [frameWord, h12]

/-- The slots in wire order: the address bits, then the payload bits. -/
theorem map_frameWord_getLsbD (a : Addr) (d : Byte) :
    (List.range 12).map (frameWord a d).getLsbD =
      (List.range 4).map a.getLsbD ++ (List.range 8).map d.getLsbD := by
  change (List.range (4 + 8)).map _ = _
  rw [List.range_add, List.map_append, List.map_map]
  congr 1 <;> refine List.map_congr_left fun k hk => ?_
  · exact frameWord_getLsbD_addr a d (List.mem_range.1 hk)
  · exact frameWord_getLsbD_data a d (List.mem_range.1 hk)

end Machine
end Sys2Proof
end

section
/-! SUPPORT. The events of a frame by their index (41_bus_transport.md R121): a slot's three events stand at 1 + 3k,
2 + 3k and 3 + 3k. -/

namespace Sys2Proof.Machine

theorem frameListing_getElem? (c : BlockConfig) (a : Addr) (d : Byte) (k : Fin 42) :
    (frameListing c a d)[k.val]? = some (phaseEvent c (frameWord a d) k) := by
  rw [← phaseEvents_eq_frameListing]
  simp

section
variable (c : BlockConfig) (f : FrameWord) {k : Nat} (hk : k < 12)

theorem phaseEvent_clockLow : phaseEvent c f ⟨1 + 3 * k, by omega⟩ = .drive .clk false := by
  have hslot : 1 + 3 * k ≤ 36 := by omega
  simp [phaseEvent, hslot]

theorem phaseEvent_data : phaseEvent c f ⟨2 + 3 * k, by omega⟩ = .drive .data (f.getLsbD k) := by
  have hslot : 2 + 3 * k ≤ 36 := by omega
  have hslotIndex : (1 + 3 * k) / 3 = k := by omega
  simp [phaseEvent, hslot, hslotIndex]

theorem phaseEvent_clockHigh : phaseEvent c f ⟨3 + 3 * k, by omega⟩ = .drive .clk true := by
  have hslot : 3 + 3 * k ≤ 36 := by omega
  simp [phaseEvent, hslot]

end

theorem isFrame_frameListing (c : BlockConfig) (a : Addr) (d : Byte) : IsFrame c a d (frameListing c a d) := by
  have hevent := frameListing_getElem? c a d
  have hdata : ∀ k < 12, (frameListing c a d)[2 + 3 * k]? = some (.drive .data ((frameWord a d).getLsbD k)) :=
    fun k hk => (hevent ⟨2 + 3 * k, by omega⟩).trans (congrArg some (phaseEvent_data c _ hk))
  exact {
    count := rfl
    first := hevent 0
    clockLow := fun k hk => (hevent ⟨1 + 3 * k, by omega⟩).trans (congrArg some (phaseEvent_clockLow c _ hk))
    dataAddr := fun k hk => by rw [hdata k (by omega), frameWord_getLsbD_addr a d hk]
    dataByte := fun k hk => by rw [hdata (4 + k) (by omega), frameWord_getLsbD_data a d hk]
    clockHigh := fun k hk => (hevent ⟨3 + 3 * k, by omega⟩).trans (congrArg some (phaseEvent_clockHigh c _ hk))
    settle := hevent 37
    latchHigh := hevent 38
    hold := hevent 39
    latchLow := hevent 40
    clockRest := hevent 41 }

end Sys2Proof.Machine
end

section
/-! SUPPORT. The Bus Transport commands as equations (41_bus_transport.md R126, R127), and the statements about them. -/

namespace Sys2Proof.Machine

/-- A frame with the levels it leaves (41_bus_transport.md R124). -/
theorem frame_eq_rest (a : Addr) (d : Byte) (s : State) :
    frame a d s =
      { s with
        levels := ⟨false, d.getLsbD 7, false⟩, trace := s.trace ++ frameListing s.config a d, phase := .idle } := by
  rw [frame_eq, levelsAfter_frameListing]

@[simp] theorem frame_config (a : Addr) (d : Byte) (s : State) : (frame a d s).config = s.config := by
  rw [frame_eq]

@[simp] theorem readCell_frame (a : Addr) (d : Byte) (s : State) (i : CellIndex) :
    (frame a d s).readCell i = s.readCell i := by
  rw [frame_eq]
  rfl

/-- Two identical frames one after the other. -/
theorem frame_frame_trace (a : Addr) (d : Byte) (s : State) :
    (frame a d (frame a d s)).trace = s.trace ++ frameListing s.config a d ++ frameListing s.config a d := by
  simp

theorem execCommit_badIndex {r : Addr} (h : r.toNat = 5 ∨ r.toNat = 7 ∨ 9 ≤ r.toNat) (s : State) :
    exec (.commit r) s = .next (raiseFault .badIndex (encode (.commit r)) s) := by
  simp only [exec, execCommit, (usedCell_eq_none_iff r).2 h]

theorem execCommit_used {r : Addr} {i : CellIndex} (hr : r.toNat = i.val) (h5 : i ≠ 5) (h7 : i ≠ 7) (s : State) :
    exec (.commit r) s = .next (frame r (s.readCell i) s) := by
  simp only [exec, execCommit, usedCell_eq_some hr h5 h7]

/-- Settles O22: WRITE is the frame of its operands, whose listing is the 42 events. -/
theorem writeSendsOneFrame : Obligations.WriteSendsOneFrame := by
  refine ⟨fun a d => ?_, fun w => decode_of_opcode_write, fun a d s => ?_, fun a d s t u ht hu => ?_, by decide⟩
  · simp [encode, commandWord_toNat]
  · exact ⟨_, isFrame_frameListing _ a d, by rw [execWrite_eq, frame_eq_rest]⟩
  · obtain rfl := Host.Outcome.next.inj ((execWrite_eq a d s).symm.trans ht)
    obtain rfl := Host.Outcome.next.inj ((execWrite_eq a d _).symm.trans hu)
    exact ⟨_, isFrame_frameListing _ a d, frame_frame_trace a d s⟩

/-- Settles O23, by what the index names: no used cell, or the cell whose frame is sent. -/
theorem commitSendsTheCell : Obligations.CommitSendsTheCell := by
  refine ⟨fun r => ?_, fun w => decode_of_opcode_commit, fun r s hr => execCommit_badIndex hr s,
    fun r s i hr h5 h7 => ?_, fun r s t u i hr h5 h7 ht hu => ?_, fun s t u ht hu => ?_⟩
  · simp [encode, commandWord_toNat]
  · exact ⟨_, isFrame_frameListing _ r _, by rw [execCommit_used hr h5 h7, frame_eq_rest]⟩
  · obtain rfl := Host.Outcome.next.inj ((execCommit_used hr h5 h7 s).symm.trans ht)
    obtain rfl := Host.Outcome.next.inj ((execCommit_used hr h5 h7 _).symm.trans hu)
    exact ⟨_, isFrame_frameListing _ r _, by rw [readCell_frame, frame_frame_trace]⟩
  · obtain rfl := Host.Outcome.next.inj ((execRstimg_eq s).symm.trans ht)
    obtain rfl := Host.Outcome.next.inj
      ((execCommit_used (r := 3) (i := 3) rfl (by decide) (by decide) _).symm.trans hu)
    have hcell : s.loadDefaults.readCell 3 = 0x8A := readCell_loadDefaults s 3
    exact ⟨_, isFrame_frameListing _ 3 0x8A, by simp [hcell], by decide⟩

end Sys2Proof.Machine
end

section
/-! SUPPORT. Bits read back as a number (20_memory.md R62), and the pair that a frame's slots carry (30_encoding.md
R81). -/

namespace Sys2Proof.Machine

theorem natOfBits_map_testBit (n x : Nat) : natOfBits ((List.range n).map x.testBit) = x % 2 ^ n := by
  induction n generalizing x with
  | zero => simp [natOfBits, Nat.mod_one]
  | succ n ih =>
    have htail : x.testBit ∘ Nat.succ = (x / 2).testBit := funext fun k => Nat.testBit_succ x k
    have hhead : (x.testBit 0).toNat = x % 2 := by
      rcases Nat.mod_two_eq_zero_or_one x with h | h <;> simp [Nat.testBit_zero, h]
    rw [List.range_succ_eq_map, List.map_cons, List.map_map, htail, natOfBits, ih, hhead, Nat.pow_succ', Nat.mod_mul]

theorem ofNat_natOfBits_map_getLsbD {w : Nat} (x : BitVec w) :
    BitVec.ofNat w (natOfBits ((List.range w).map x.getLsbD)) = x := by
  apply BitVec.eq_of_toNat_eq
  have hbits : natOfBits ((List.range w).map x.getLsbD) = x.toNat % 2 ^ w := natOfBits_map_testBit w x.toNat
  simp [hbits]

theorem pairOfSlots_frameWord (a : Addr) (d : Byte) :
    pairOfSlots ((List.range 12).map (frameWord a d).getLsbD) = [(a, d)] := by
  have haddr : ((List.range 4).map a.getLsbD).length = 4 := by simp
  rw [pairOfSlots, if_pos (by simp), map_frameWord_getLsbD, List.take_left' haddr, List.drop_left' haddr,
    ofNat_natOfBits_map_getLsbD, ofNat_natOfBits_map_getLsbD]

end Sys2Proof.Machine
end

section
/-! SUPPORT. What a reader of the lines sees of a frame (30_encoding.md R81): each slot gives one bit, the latch pulse
closes the pair. -/

namespace Sys2Proof.Machine

/-- The three events of one slot (41_bus_transport.md R120). -/
def slotEvents (b : Bool) : List Event := [.drive .clk false, .drive .data b, .drive .clk true]

/-- The events after the last slot (41_bus_transport.md R120). -/
def latchEvents (c : BlockConfig) : List Event :=
  [.wait (tSettle c), .drive .latch true, .wait (tLatchHigh c), .drive .latch false, .drive .clk false]

theorem frameListing_eq_slots (c : BlockConfig) (a : Addr) (d : Byte) :
    frameListing c a d =
      .drive .latch false :: ((List.range 12).map (frameWord a d).getLsbD).flatMap slotEvents ++ latchEvents c := by
  rw [List.flatMap_map]
  rfl

@[simp] theorem readerStep_readData (r : LineReader) (i : CellIndex) (v : Byte) :
    readerStep r (.readData i v) = r := by
  simp [readerStep, levelsStep]

theorem readerStep_latchLow (r : LineReader) :
    readerStep r (.drive .latch false) = { r with levels := r.levels.put .latch false } := by
  simp [readerStep, levelsStep, PerLine.put]

/-- With LATCH low a slot adds its DATA level to the bits. -/
theorem foldl_slotEvents (r : LineReader) (b : Bool) (hlatch : r.levels.latch = false) :
    (slotEvents b).foldl readerStep r = ⟨⟨true, b, false⟩, r.bits ++ [b], r.log⟩ := by
  simp [slotEvents, readerStep, levelsStep, PerLine.put, hlatch]

theorem foldl_slots (bs : List Bool) (r : LineReader) (hlatch : r.levels.latch = false) :
    ∃ p : PerLine Bool, p.latch = false ∧
      (bs.flatMap slotEvents).foldl readerStep r = ⟨p, r.bits ++ bs, r.log⟩ := by
  induction bs generalizing r with
  | nil => exact ⟨r.levels, hlatch, by simp⟩
  | cons b bs ih =>
    obtain ⟨p, hp, hread⟩ := ih ⟨⟨true, b, false⟩, r.bits ++ [b], r.log⟩ rfl
    exact ⟨p, hp, by simp [foldl_slotEvents r b hlatch, hread]⟩

/-- With LATCH low the latch pulse takes the bits as one pair. -/
theorem foldl_latchEvents (c : BlockConfig) (r : LineReader) (hlatch : r.levels.latch = false) :
    (latchEvents c).foldl readerStep r = ⟨⟨false, r.levels.data, false⟩, [], r.log ++ pairOfSlots r.bits⟩ := by
  simp [latchEvents, readerStep, levelsStep, PerLine.put, hlatch]

/-- A reader between two frames sees a whole frame as its pair. -/
theorem foldl_frameListing (c : BlockConfig) (a : Addr) (d : Byte) (r : LineReader) (hbits : r.bits = []) :
    ∃ p : PerLine Bool, (frameListing c a d).foldl readerStep r = ⟨p, [], r.log ++ [(a, d)]⟩ := by
  obtain ⟨p, hp, hslots⟩ :=
    foldl_slots ((List.range 12).map (frameWord a d).getLsbD) (readerStep r (.drive .latch false))
      (by rw [readerStep_latchLow]; rfl)
  rw [frameListing_eq_slots, List.foldl_append, List.foldl_cons, hslots, foldl_latchEvents c _ hp]
  simp only [readerStep_latchLow, hbits, List.nil_append, pairOfSlots_frameWord]
  exact ⟨_, rfl⟩

theorem writes_append_frameListing {es : List Event} (hwhole : (readTrace es).bits = []) (c : BlockConfig) (a : Addr)
    (d : Byte) : writes (es ++ frameListing c a d) = writes es ++ [(a, d)] := by
  obtain ⟨p, hread⟩ := foldl_frameListing c a d (readTrace es) hwhole
  rw [writes, readTrace, List.foldl_append, ← readTrace, hread]
  rfl

theorem writes_append_readData (es : List Event) (i : CellIndex) (v : Byte) :
    writes (es ++ [.readData i v]) = writes es := by
  simp [writes, readTrace]

theorem writes_frame {s : State} (hrest : s.AtRest) (a : Addr) (d : Byte) :
    writes (frame a d s).trace = writes s.trace ++ [(a, d)] := by
  rw [frame_trace, writes_append_frameListing hrest.wholeFrames]

/-- A command that sends no frame appends no event of a line. -/
theorem writes_exec_of_no_frame {i : Instr} {s t : State} (h : exec i s = .next t) (hwrite : ∀ a d, i ≠ .write a d)
    (hcommit : ∀ r, i = .commit r → r.toNat = 5 ∨ r.toNat = 7 ∨ 9 ≤ r.toNat) : writes t.trace = writes s.trace := by
  cases i with
  | rstimg =>
    obtain rfl := Host.Outcome.next.inj ((execRstimg_eq s).symm.trans h)
    rw [State.loadDefaults_trace]
  | apply r m v =>
    rcases execApply_cases r m v s with ⟨-, he⟩ | ⟨i, -, -, he⟩ | ⟨i, -, -, he⟩ <;>
      obtain rfl := Host.Outcome.next.inj (he.symm.trans h)
    · rw [raiseFault_trace]
    · rw [raiseFault_trace]
    · rw [State.writeCell_trace]
  | write a d => exact absurd rfl (hwrite a d)
  | commit r =>
    obtain rfl := Host.Outcome.next.inj ((execCommit_badIndex (hcommit r rfl) s).symm.trans h)
    rw [raiseFault_trace]
  | read r =>
    rcases execRead_cases r s with ⟨-, he⟩ | ⟨i, -, -, he⟩ | ⟨i, -, -, he⟩ <;>
      obtain rfl := Host.Outcome.next.inj (he.symm.trans h)
    · rw [raiseFault_trace]
    · rw [State.perform_trace, State.countDraw_trace, writes_append_readData]
    · rw [State.perform_trace, writes_append_readData]

/-- Settles O28: a state at rest is between two frames, WRITE and COMMIT of a used cell send one frame, and no other
command moves a line. -/
theorem writeLogGainsExactlyTheFrames : Obligations.WriteLogGainsExactlyTheFrames := by
  refine fun s hrest => ⟨fun a d t ht => ?_, fun r i t hr h5 h7 ht => ?_, fun i t => writes_exec_of_no_frame⟩
  · obtain rfl := Host.Outcome.next.inj ((execWrite_eq a d s).symm.trans ht)
    exact writes_frame hrest a d
  · obtain rfl := Host.Outcome.next.inj ((execCommit_used hr h5 h7 s).symm.trans ht)
    exact writes_frame hrest r (s.readCell i)

end Sys2Proof.Machine
end

section
/-! SUPPORT. Decoding a command's word gives the command back (30_encoding.md R83, R87), so a ready block runs the
commands of a host sequence one by one (42_host_sequences.md R150). -/

namespace Sys2Proof

section
variable (op : BitVec 4) (r : Addr) (m v : Byte)

@[simp] theorem opField_commandWord : opField (commandWord op r m v) = op := by
  apply BitVec.eq_of_toNat_eq
  rw [opField_toNat, commandWord_toNat]
  omega

@[simp] theorem rField_commandWord : rField (commandWord op r m v) = r := by
  apply BitVec.eq_of_toNat_eq
  rw [rField, BitVec.extractLsb'_toNat, commandWord_toNat, Nat.shiftRight_eq_div_pow]
  omega

@[simp] theorem mField_commandWord : mField (commandWord op r m v) = m := by
  apply BitVec.eq_of_toNat_eq
  rw [mField, BitVec.extractLsb'_toNat, commandWord_toNat, Nat.shiftRight_eq_div_pow]
  omega

@[simp] theorem vField_commandWord : vField (commandWord op r m v) = v := by
  apply BitVec.eq_of_toNat_eq
  rw [vField, BitVec.extractLsb'_toNat, commandWord_toNat, Nat.shiftRight_eq_div_pow]
  omega

/-! The bits that the decoder wants to be 0 (30_encoding.md R87). -/

@[simp] theorem commandWord_unused_of_mask_value : (commandWord op r m v).extractLsb' 16 8 = 0#8 := by
  apply (extractLsb'_eq_zero_iff _ _ _).2
  rw [commandWord_toNat]
  omega

@[simp] theorem commandWord_unused_of_value : (commandWord op r 0#8 v).extractLsb' 8 16 = 0#16 := by
  apply (extractLsb'_eq_zero_iff _ _ _).2
  rw [commandWord_toNat, BitVec.toNat_zero]
  omega

@[simp] theorem commandWord_unused_of_index : (commandWord op r 0#8 0#8).extractLsb' 0 24 = 0#24 := by
  apply (extractLsb'_eq_zero_iff _ _ _).2
  rw [commandWord_toNat, BitVec.toNat_zero]
  omega

end

theorem decode_encode (i : Instr) : decode (encode i) = some i := by
  cases i with
  | rstimg => rfl
  | apply r m v => simp [decode, encode]
  | write a d => simp [decode, encode]
  | commit r => simp [decode, encode]
  | read r => simp [decode, encode]

namespace Machine

theorem runCommands_cons_of_exec {i : Instr} {s t : State} (hready : s.Ready) (h : exec i s = .next t)
    (is : List Instr) : runCommands (i :: is) s = runCommands is t :=
  runCommands_cons i is s t (decode_encode i) hready h

theorem runCommands_singleton {i : Instr} {s t : State} (hready : s.Ready) (h : exec i s = .next t) :
    runCommands [i] s = .next t :=
  runCommands_cons_of_exec hready h []

end Machine
end Sys2Proof
end

section
/-! SUPPORT. The arithmetic of a frequency: its band (42_host_sequences.md R168), its tuning word and the admission of
it (R169, R170). -/

namespace Sys2Proof.Machine

theorem band_cases (f : Nat) :
    (f < 88500000 ∧ band f = 3) ∨ (88500000 ≤ f ∧ f < 97900000 ∧ band f = 2) ∨
    (97900000 ≤ f ∧ f < 103000000 ∧ band f = 1) ∨ (103000000 ≤ f ∧ band f = 0) := by
  unfold band
  split_ifs <;> simp <;> omega

/-- Settles O42: in each of the four ranges the other three bands are other bytes. -/
theorem bandsByFrequency : Obligations.BandsByFrequency := by
  intro f
  rcases band_cases f with ⟨hf, h⟩ | ⟨hlow, hf, h⟩ | ⟨hlow, hf, h⟩ | ⟨hf, h⟩ <;> simp [h] <;> omega

theorem admitted_iff_tuningWord_lt (f : Nat) : admitted f = true ↔ tuningWord f < 16384 := decide_eq_true_iff

theorem admitted_iff (f : Nat) : admitted f = true ↔ f ≤ 133913727 := by
  rw [admitted_iff_tuningWord_lt, tuningWord]
  omega

theorem tuningLow_toNat (f : Nat) : (tuningLow f).toNat = tuningWord f % 256 := by
  simp [tuningLow]

/-- The high byte is not cut for an admitted frequency. -/
theorem tuningHigh_toNat {f : Nat} (h : admitted f = true) : (tuningHigh f).toNat = tuningWord f / 256 := by
  have hword : tuningWord f < 16384 := (admitted_iff_tuningWord_lt f).1 h
  simp only [tuningHigh, BitVec.toNat_ofNat]
  omega

theorem seqTune_eq_none {f : Nat} (h : admitted f = false) (p : FacadeParams) (rst : Bool) :
    seqTune p f rst = none := by
  simp [seqTune, h]

theorem seqBegin_eq_none {f : Nat} (h : admitted f = false) (p : FacadeParams) : seqBegin p f = none := by
  simp [seqBegin, h]

/-- Settles O43: the word is a quotient by 8192, and the bound of admission is the last frequency whose word is below
2 ^ 14. -/
theorem tuningWordAndAdmission : Obligations.TuningWordAndAdmission := by
  refine ⟨fun f => ?_, admitted_iff, fun f h => ?_, fun p f rst hf => ?_, by decide⟩
  · unfold tuningWord
    omega
  · have hword : tuningWord f < 16384 := (admitted_iff_tuningWord_lt f).1 h
    rw [tuningLow_toNat, tuningHigh_toNat h]
    omega
  · have hrefused : admitted f = false := by
      rw [← Bool.not_eq_true, admitted_iff]
      omega
    exact ⟨seqTune_eq_none hrefused p rst, seqBegin_eq_none hrefused p⟩

end Sys2Proof.Machine
end

section
/-! SUPPORT. DUMP (42_host_sequences.md R177): a list of READs reports its cells one after the other. -/

namespace Sys2Proof.Machine

/-- What READ of a cell does (40_register_image.md R106): it reports a draw for a reserved cell, the contents for a used
one. -/
def State.reportCell (s : State) (i : CellIndex) : State :=
  if isReserved i then s.countDraw.emit (.readData i s.nextDraw) else s.emit (.readData i (s.readCell i))

/-- READ of a cell by its own index. -/
def readCommand (i : CellIndex) : Instr := .read (BitVec.ofNat 4 i)

theorem exec_readCommand (s : State) (i : CellIndex) : exec (readCommand i) s = .next (s.reportCell i) := by
  have hindex : (BitVec.ofNat 4 i).toNat = i.val := by
    simp only [BitVec.toNat_ofNat]
    omega
  unfold State.reportCell
  cases hi : isReserved i with
  | true => exact execRead_reserved hindex hi s
  | false => exact execRead_used hindex hi s

theorem State.Ready.reportCell {s : State} (hready : s.Ready) (i : CellIndex) : (s.reportCell i).Ready := by
  unfold State.reportCell
  split <;> exact hready

theorem runCommands_readCommands (cells : List CellIndex) {s : State} (hready : s.Ready) :
    runCommands (cells.map readCommand) s = .next (cells.foldl State.reportCell s) := by
  induction cells generalizing s with
  | nil => rfl
  | cons i cells ih =>
    rw [List.map_cons, runCommands_cons_of_exec hready (exec_readCommand s i), ih (hready.reportCell i),
      List.foldl_cons]

theorem seqDump_eq : seqDump = ([0, 1, 2, 3, 4, 5, 6, 7, 8] : List CellIndex).map readCommand := rfl

@[simp] theorem State.readCell_emit (s : State) (e : Event) (i : CellIndex) : (s.emit e).readCell i = s.readCell i :=
  rfl

@[simp] theorem State.readCell_countDraw (s : State) (i : CellIndex) : s.countDraw.readCell i = s.readCell i := rfl

/-- Settles O50: the reports of the nine cells in order, cells 5 and 7 taking two draws one after the other. -/
theorem dumpReportsTheCellsInOrder : Obligations.DumpReportsTheCellsInOrder := by
  intro s hready
  have hrun := runCommands_readCommands [0, 1, 2, 3, 4, 5, 6, 7, 8] hready
  rw [← seqDump_eq] at hrun
  refine ⟨_, s.draws, s.draws + 1, by omega, hrun, ?_⟩
  simp [State.reportCell, isReserved, State.nextDraw, hready.1]

end Sys2Proof.Machine
end

section
/-! SUPPORT. The masked update of one cell followed by one frame of it: what SET, SETOPT and every setter come to
(42_host_sequences.md R153, R154). -/

namespace Sys2Proof.Machine

/-- A cell takes a byte and is sent to a bus address. -/
def State.updateAndSend (s : State) (r : Addr) (i : CellIndex) (v : Byte) : State := frame r v (s.writeCell i v)

section
variable (s : State) (r : Addr) (i : CellIndex) (v : Byte)

@[simp] theorem State.writeCell_readCell : s.writeCell i (s.readCell i) = s := by
  simp [State.writeCell, State.readCell]

@[simp] theorem readCell_updateAndSend_same : (s.updateAndSend r i v).readCell i = v := by
  rw [State.updateAndSend, readCell_frame, readCell_writeCell_same]

theorem readCell_updateAndSend_other {j : CellIndex} (h : j ≠ i) :
    (s.updateAndSend r i v).readCell j = s.readCell j := by
  rw [State.updateAndSend, readCell_frame, readCell_writeCell_other s h]

@[simp] theorem State.updateAndSend_trace : (s.updateAndSend r i v).trace = s.trace ++ frameListing s.config r v :=
  frame_trace r v _

theorem isFrame_updateAndSend :
    IsFrame s.config r ((s.updateAndSend r i v).readCell i) (frameListing s.config r v) := by
  rw [readCell_updateAndSend_same]
  exact isFrame_frameListing s.config r v

/-- Only the image, the lines and the trace change, when the sequencer was idle before. -/
theorem State.updateAndSend_frame (hidle : s.phase = .idle) :
    s.updateAndSend r i v =
      { s with
        img := (s.updateAndSend r i v).img
        levels := (s.updateAndSend r i v).levels
        trace := (s.updateAndSend r i v).trace } := by
  rw [State.updateAndSend, frame_eq, ← hidle]
  rfl

theorem writes_updateAndSend (hrest : s.AtRest) :
    writes (s.updateAndSend r i v).trace = writes s.trace ++ [(r, v)] := by
  rw [State.updateAndSend_trace, writes_append_frameListing hrest.wholeFrames]

end

/-! The sequences that do it, from a block that accepts commands. -/

section
variable {r : Addr} {i : CellIndex} (hr : r.toNat = i.val) (h5 : i ≠ 5) (h7 : i ≠ 7) {s : State} (hready : s.Ready)
include hr h5 h7 hready

theorem runCommands_commit : runCommands [.commit r] s = .next (s.updateAndSend r i (s.readCell i)) := by
  rw [State.updateAndSend, State.writeCell_readCell]
  exact runCommands_singleton hready (execCommit_used hr h5 h7 s)

theorem runCommands_seqSet {m v : Byte} (hv : v &&& ~~~m = 0) :
    runCommands (seqSet r m v) s = .next (s.updateAndSend r i (masked (s.readCell i) m v)) := by
  rw [seqSet, runCommands_cons_of_exec hready (execApply_confined (usedCell_eq_some hr h5 h7) hv s)]
  refine runCommands_singleton hready ?_
  rw [execCommit_used hr h5 h7, readCell_writeCell_same, State.updateAndSend]

end

/-- Settles O44: APPLY writes the masked update and COMMIT sends what the cell then holds. -/
theorem setUpdatesAndSendsOneFrame : Obligations.SetUpdatesAndSendsOneFrame := by
  refine ⟨fun r m v => rfl, fun r m v s i hready hr h5 h7 hv => ?_, fun c => ?_⟩
  · exact ⟨_, _, runCommands_seqSet hr h5 h7 hready hv, isFrame_updateAndSend s r i _, s.updateAndSend_trace r i _,
      readCell_updateAndSend_same s r i _, fun j => readCell_updateAndSend_other s r i _,
      s.updateAndSend_frame r i _ hready.2⟩
  · have hupdate : masked ((State.resetWith c).readCell 8) 0x03 0x02 = 0x1A := by
      show masked 0x1B 0x03 0x02 = 0x1A
      decide
    have hrun := runCommands_seqSet (r := 8) (i := 8) rfl (by decide) (by decide) (s := State.resetWith c) ⟨rfl, rfl⟩
      (m := 0x03) (v := 0x02) (by decide)
    rw [hupdate] at hrun
    exact ⟨_, _, hrun, readCell_updateAndSend_same _ 8 8 _, isFrame_frameListing c 8 _,
      (State.resetWith c).updateAndSend_trace 8 8 _, by decide⟩

end Sys2Proof.Machine
end

section
/-! SUPPORT. The table of the setters (42_host_sequences.md R155 to R165): every row is a masked update of a used cell with
a confined value, as the constraints on the field map say (R152). -/

namespace Sys2Proof.Machine

/-- The commands that a row's cell and update stand for (R153, R154). -/
def SetterRow.listed (row : SetterRow) : List Instr :=
  match row.update with
  | some (m, v) => [.apply row.cell m v, .commit row.cell]
  | none => [.commit row.cell]

/-- What a row's update makes of a byte (R153, R154). -/
def SetterRow.updated (row : SetterRow) (old : Byte) : Byte :=
  match row.update with
  | some (m, v) => masked old m v
  | none => old

variable {p : FacadeParams}

theorem commands_eq_listed {row : SetterRow} (hrow : row ∈ setterTable p) : row.commands = row.listed := by
  have hall : (setterTable p).map SetterRow.commands = (setterTable p).map SetterRow.listed := rfl
  exact List.map_inj_left.1 hall row hrow

theorem cell_mem_of_mem_setterTable {row : SetterRow} (hrow : row ∈ setterTable p) :
    row.cell ∈ [0, 2, 6, p.fields.pilotReg, p.fields.subcReg] := by
  have hall : (setterTable p).map SetterRow.cell ⊆ [0, 2, 6, p.fields.pilotReg, p.fields.subcReg] := by
    simp only [setterTable, List.map_cons, List.map_nil, List.cons_subset, List.mem_cons, List.nil_subset, true_or,
      or_true, and_self]
  exact hall (List.mem_map_of_mem hrow)

theorem update_mem_values {row : SetterRow} (hrow : row ∈ setterTable p) {m v : Byte} (hu : row.update = some (m, v)) :
    (m, v) ∈ p.fields.values := by
  have hall : (setterTable p).filterMap SetterRow.update ⊆ p.fields.values := by
    simp only [setterTable, FieldMap.values, List.filterMap_cons, List.filterMap_nil, List.cons_subset, List.mem_cons,
      List.nil_subset, true_or, or_true, and_self]
  exact hall (List.mem_filterMap.2 ⟨row, hrow, hu⟩)

/-- The constraints of R152, (a) to (g) and then the two tables. -/
theorem fieldMap_wellFormed_iff (f : FieldMap) :
    f.wellFormed = true ↔
      f.valuesConfined = true ∧ f.masksDisjoint = true ∧ f.levelsDistinct = true ∧ f.powerCovers = true ∧
      f.preemphCoded = true ∧ f.secondaryFixed = true ∧ f.avoidsTuning = true ∧ f.widthsRight = true ∧
      f.registersRight = true := by
  simp only [FieldMap.wellFormed, Bool.and_eq_true, and_assoc]

section
variable (hfields : p.fields.wellFormed = true)
include hfields

theorem registers_of_wellFormed :
    (p.fields.pilotReg = 1 ∨ p.fields.pilotReg = 2) ∧ (p.fields.subcReg = 1 ∨ p.fields.subcReg = 2) := by
  obtain ⟨-, -, -, -, -, -, -, -, hregisters⟩ := (fieldMap_wellFormed_iff p.fields).1 hfields
  simpa [FieldMap.registersRight] using hregisters

theorem confined_of_wellFormed {m v : Byte} (hmem : (m, v) ∈ p.fields.values) : v &&& ~~~m = 0 := by
  obtain ⟨hconfined, -⟩ := (fieldMap_wellFormed_iff p.fields).1 hfields
  simpa [confined] using List.all_eq_true.1 hconfined _ hmem

theorem powerOn_sets_of_wellFormed :
    p.fields.pwrOn.getLsbD p.fields.pwrEnableBit = true ∧ p.fields.pwrOn.getLsbD p.fields.crystalBit = true := by
  obtain ⟨-, -, -, hpower, -⟩ := (fieldMap_wellFormed_iff p.fields).1 hfields
  simp only [FieldMap.powerCovers, Bool.and_eq_true] at hpower
  obtain ⟨⟨-, henable⟩, hcrystal⟩ := hpower
  exact ⟨henable, hcrystal⟩

/-- The cell of a row is 0, 1, 2 or 6, so a used one. -/
theorem setterRow_names_used_cell {row : SetterRow} (hrow : row ∈ setterTable p) :
    ∃ i : CellIndex, row.cell.toNat = i.val ∧ i ≠ 5 ∧ i ≠ 7 := by
  have hcells : [0, 2, 6, p.fields.pilotReg, p.fields.subcReg] ⊆ [0, 1, 2, 6] := by
    obtain ⟨hpilot, hsubc⟩ := registers_of_wellFormed hfields
    rcases hpilot with hpilot | hpilot <;> rcases hsubc with hsubc | hsubc <;> simp [hpilot, hsubc]
  have hused : ∀ r ∈ ([0, 1, 2, 6] : List Addr), ∃ i : CellIndex, r.toNat = i.val ∧ i ≠ 5 ∧ i ≠ 7 := by decide
  exact hused row.cell (hcells (cell_mem_of_mem_setterTable hrow))

/-- A setter makes its row's update and sends the cell. -/
theorem runCommands_setter {row : SetterRow} (hrow : row ∈ setterTable p) {i : CellIndex} (hr : row.cell.toNat = i.val)
    (h5 : i ≠ 5) (h7 : i ≠ 7) {s : State} (hready : s.Ready) :
    runCommands row.commands s = .next (s.updateAndSend row.cell i (row.updated (s.readCell i))) := by
  rw [commands_eq_listed hrow, SetterRow.listed, SetterRow.updated]
  cases hu : row.update with
  | none => exact runCommands_commit hr h5 h7 hready
  | some mv => exact runCommands_seqSet hr h5 h7 hready (confined_of_wellFormed hfields (update_mem_values hrow hu))

theorem powerOn_bits (old : Byte) :
    (masked old p.fields.pwrMask p.fields.pwrOn).getLsbD p.fields.pwrEnableBit = true ∧
    (masked old p.fields.pwrMask p.fields.pwrOn).getLsbD p.fields.crystalBit = true := by
  obtain ⟨henable, hcrystal⟩ := powerOn_sets_of_wellFormed hfields
  simp [masked_getLsbD, henable, hcrystal]

end

/-- Settles O53: each row is an update and a frame of its cell; POWERON is the first row. -/
theorem everySetterUpdatesAndSendsItsCell : Obligations.EverySetterUpdatesAndSendsItsCell := by
  intro p s hfields hrest hfault
  have hready : s.Ready := ⟨hfault, hrest.idle⟩
  refine ⟨fun row hrow => ⟨commands_eq_listed hrow, ?_⟩, ?_⟩
  · obtain ⟨i, hr, h5, h7⟩ := setterRow_names_used_cell hfields hrow
    have hcell := readCell_updateAndSend_same s row.cell i (row.updated (s.readCell i))
    refine ⟨_, i, _, hr, runCommands_setter hfields hrow hr h5 h7 hready, ?_,
      fun j => readCell_updateAndSend_other s row.cell i _, isFrame_updateAndSend s row.cell i _,
      s.updateAndSend_trace row.cell i _, ?_, s.updateAndSend_frame row.cell i _ hrest.idle⟩ <;> rw [hcell]
    · rfl
    · exact writes_updateAndSend s row.cell i _ hrest
  · have hrow : ⟨seqPowerOn p, 0, some (p.fields.pwrMask, p.fields.pwrOn)⟩ ∈ setterTable p := List.mem_cons_self
    refine ⟨_, runCommands_setter hfields hrow (i := 0) rfl (by decide) (by decide) hready, ?_⟩
    rw [readCell_updateAndSend_same]
    exact powerOn_bits hfields _

end Sys2Proof.Machine
end

section
/-! SUPPORT. The manual resets (42_host_sequences.md R166, R167), each of one command. -/

namespace Sys2Proof.Machine

theorem defaultCell_of_used {i : CellIndex} (h5 : i ≠ 5) (h7 : i ≠ 7) : ∃ v, defaultCell i = some v := by
  have hsome : (defaultCell i).isSome = true := by
    revert i
    decide
  exact Option.isSome_iff_exists.1 hsome

/-- Settles O54: CHIPRST is a WRITE, which does not write the image, and FULLRST is RSTIMG. -/
theorem manualResets : Obligations.ManualResets := by
  refine ⟨fun p s hready => ?_, rfl, fun s hready => ?_⟩
  · have hframe := frame_eq p.chipResetAddr p.chipResetData s
    exact ⟨_, _, runCommands_singleton hready (execWrite_eq _ _ s), by rw [hframe], isFrame_frameListing _ _ _,
      frame_trace _ _ s, by rw [hframe]; exact hready.1⟩
  · refine ⟨_, runCommands_singleton hready (execRstimg_eq s), rfl, fun i h5 h7 => ?_⟩
    obtain ⟨v, hv⟩ := defaultCell_of_used h5 h7
    rw [readCell_loadDefaults, hv, Option.getD_some]

end Sys2Proof.Machine
end

section
/-! SUPPORT. The decoder on every word (30_encoding.md R87): which words it gives no command for (60_exceptions.md
R203), and that a command it gives is encoded as the word it came from (30_encoding.md R83). -/

namespace Sys2Proof

theorem rField_toNat (w : Word) : (rField w).toNat = w.toNat / 2 ^ 24 % 16 := by
  rw [rField, BitVec.extractLsb'_toNat, Nat.shiftRight_eq_div_pow]

theorem mField_toNat (w : Word) : (mField w).toNat = w.toNat / 2 ^ 8 % 256 := by
  rw [mField, BitVec.extractLsb'_toNat, Nat.shiftRight_eq_div_pow]

theorem vField_toNat (w : Word) : (vField w).toNat = w.toNat % 256 := by
  rw [vField, BitVec.extractLsb'_toNat, Nat.shiftRight_zero]

/-- The conditions of R203: a reserved opcode, or a bit set that the opcode's command wants to be 0. -/
theorem decode_eq_none_iff (w : Word) :
    decode w = none ↔
      w.toNat / 2 ^ 28 = 0 ∨ 6 ≤ w.toNat / 2 ^ 28 ∨ (w.toNat / 2 ^ 28 = 1 ∧ w.toNat % 2 ^ 28 ≠ 0) ∨
      (w.toNat / 2 ^ 28 = 2 ∧ w.toNat / 2 ^ 16 % 2 ^ 8 ≠ 0) ∨
      (w.toNat / 2 ^ 28 = 3 ∧ w.toNat / 2 ^ 8 % 2 ^ 16 ≠ 0) ∨
      ((w.toNat / 2 ^ 28 = 4 ∨ w.toNat / 2 ^ 28 = 5) ∧ w.toNat % 2 ^ 24 ≠ 0) := by
  rw [decode]
  split <;>
    simp only [opField_toNat, extractLsb'_eq_zero_iff, ite_eq_right_iff, reduceCtorEq, imp_false, true_iff] at * <;>
    omega

theorem encode_of_decode {w : Word} {i : Instr} (h : decode w = some i) : encode i = w := by
  have hw := w.isLt
  apply BitVec.eq_of_toNat_eq
  rw [decode] at h
  split at h <;> simp only [opField_toNat, extractLsb'_eq_zero_iff, Option.ite_none_right_eq_some, Option.some.injEq,
    reduceCtorEq] at *
  all_goals
    obtain ⟨hzero, rfl⟩ := h
    simp only [encode, commandWord_toNat, rField_toNat, mField_toNat, vField_toNat, BitVec.ofNat_eq_ofNat,
      BitVec.toNat_ofNat]
    omega

end Sys2Proof
end

section
/-! SUPPORT. Which fault a command raises and which a command word raises, as functions of the command and of the word
(60_exceptions.md R203 to R206): one kind at most, the first in priority. -/

namespace Sys2Proof.Machine

/-- The kind a command raises, its index checked before its value (60_exceptions.md R204 to R206). -/
def raisedKind : Instr → Option FaultKind
  | .rstimg => none
  | .apply r m v =>
    if usedCell r = none then some .badIndex else if outsideMask m v then some .valueOutsideMask else none
  | .write _ _ => none
  | .commit r => if usedCell r = none then some .badIndex else none
  | .read r => if readableCell r = none then some .badIndex else none

/-- The kind a command word raises, IllegalCommand before the kinds of a command (60_exceptions.md R206). -/
def wordKind (w : Word) : Option FaultKind := (decode w).elim (some .illegalCommand) raisedKind

/-! The operands that a command's kind depends on. -/

section
variable (r : Addr) (m v : Byte)

theorem raisedKind_apply_badIndex_iff :
    raisedKind (.apply r m v) = some .badIndex ↔ r.toNat = 5 ∨ r.toNat = 7 ∨ 9 ≤ r.toNat := by
  rw [← usedCell_eq_none_iff]
  cases hu : usedCell r <;> simp [raisedKind, hu]

theorem raisedKind_apply_valueOutsideMask_iff :
    raisedKind (.apply r m v) = some .valueOutsideMask ↔ usedCell r ≠ none ∧ v &&& ~~~m ≠ 0 := by
  rw [← outsideMask_eq_true_iff]
  cases hu : usedCell r <;> simp [raisedKind, hu]

theorem raisedKind_commit_badIndex_iff :
    raisedKind (.commit r) = some .badIndex ↔ r.toNat = 5 ∨ r.toNat = 7 ∨ 9 ≤ r.toNat := by
  rw [← usedCell_eq_none_iff]
  simp [raisedKind]

theorem raisedKind_read_badIndex_iff : raisedKind (.read r) = some .badIndex ↔ 9 ≤ r.toNat := by
  rw [← readableCell_eq_none_iff]
  simp [raisedKind]

end

/-- Only APPLY looks at a value (60_exceptions.md R205). -/
theorem raisedKind_eq_valueOutsideMask_iff (i : Instr) :
    raisedKind i = some .valueOutsideMask ↔
      ∃ r m v, i = .apply r m v ∧ usedCell r ≠ none ∧ v &&& ~~~m ≠ 0 := by
  cases i with
  | apply r m v => simp [raisedKind_apply_valueOutsideMask_iff]
  | rstimg | write | commit | read => simp [raisedKind]

theorem raisedKind_ne_illegalCommand (i : Instr) : raisedKind i ≠ some .illegalCommand := by
  cases i with
  | apply r m v => cases hu : usedCell r <;> simp [raisedKind, hu]
  | rstimg | write | commit | read => simp [raisedKind]

/-! The tie to the model: a meaning, and an accepted word, raise that kind and do nothing else, or leave the record as
it is. -/

theorem exec_raises_or_keeps (i : Instr) (s : State) :
    (∃ k, raisedKind i = some k ∧ exec i s = .next (raiseFault k (encode i) s)) ∨
    (raisedKind i = none ∧ ∃ t, exec i s = .next t ∧ t.fault = s.fault) := by
  cases i with
  | rstimg => exact .inr ⟨rfl, _, execRstimg_eq s, rfl⟩
  | apply r m v =>
    rcases execApply_cases r m v s with ⟨hu, he⟩ | ⟨i, hu, hm, he⟩ | ⟨i, hu, hm, he⟩
    · exact .inl ⟨.badIndex, by simp [raisedKind, hu], he⟩
    · exact .inl ⟨.valueOutsideMask, by simp [raisedKind, hu, hm], he⟩
    · exact .inr ⟨by simp [raisedKind, hu, hm], _, he, rfl⟩
  | write a d => exact .inr ⟨rfl, _, execWrite_eq a d s, by rw [frame_eq]⟩
  | commit r =>
    rcases execCommit_cases r s with ⟨hu, he⟩ | ⟨i, hu, he⟩
    · exact .inl ⟨.badIndex, by simp [raisedKind, hu], he⟩
    · exact .inr ⟨by simp [raisedKind, hu], _, he, by rw [frame_eq]⟩
  | read r =>
    rcases execRead_cases r s with ⟨hu, he⟩ | ⟨i, hu, -, he⟩ | ⟨i, hu, -, he⟩
    · exact .inl ⟨.badIndex, by simp [raisedKind, hu], he⟩
    · exact .inr ⟨by simp [raisedKind, hu], _, he, by simp⟩
    · exact .inr ⟨by simp [raisedKind, hu], _, he, by simp⟩

/-- In a block without a fault the record afterwards is of the kind that the command raises. -/
theorem exec_records_raisedKind (i : Instr) {s : State} (hfault : s.fault = none) :
    ∃ t, exec i s = .next t ∧ ∀ k, (∃ c, t.fault = some ⟨k, c⟩) ↔ raisedKind i = some k := by
  rcases exec_raises_or_keeps i s with ⟨k, hk, he⟩ | ⟨hk, t, he, ht⟩
  · exact ⟨_, he, fun k' => by simp [hk]⟩
  · exact ⟨t, he, fun k' => by simp [hk, ht, hfault]⟩

theorem runWord_raises_or_keeps (w : Word) (s : State) :
    (∃ k, wordKind w = some k ∧ runWord w s = .next (raiseFault k w s)) ∨
    (wordKind w = none ∧ ∃ t, runWord w s = .next t ∧ t.fault = s.fault) := by
  cases hd : decode w with
  | none => exact .inl ⟨.illegalCommand, by simp [wordKind, hd], by simp [runWord, hd]⟩
  | some i =>
    have hkind : wordKind w = raisedKind i := by simp [wordKind, hd]
    rw [hkind, runWord_of_decode hd, ← encode_of_decode hd]
    exact exec_raises_or_keeps i s

/-- A ready block's step on a word that raises a kind sets the record and takes the input (60_exceptions.md R201). -/
theorem step_of_wordKind {s : State} {w : Word} {rest : List Input} {k : FaultKind}
    (hin : s.inputs = .command w :: rest) (hready : s.Ready) (hk : wordKind w = some k) :
    step s = .next { s with inputs := rest, fault := some ⟨k, w⟩ } := by
  rw [step_command s w rest hin ((held_eq_none_iff s).2 hready)]
  rcases runWord_raises_or_keeps w { s with inputs := rest } with ⟨k', hk', hrun⟩ | ⟨hk', -⟩
  · obtain rfl : k = k' := Option.some.inj (hk.symm.trans hk')
    exact hrun
  · simp [hk] at hk'

/-- A record after a ready block's step is of the presented word and of the kind it raises. -/
theorem record_of_step {s t : State} {w : Word} {rest : List Input} {k : FaultKind} {c : Word}
    (hin : s.inputs = .command w :: rest) (hready : s.Ready) (hstep : step s = .next t)
    (hrecord : t.fault = some ⟨k, c⟩) : c = w ∧ wordKind w = some k := by
  rw [step_command s w rest hin ((held_eq_none_iff s).2 hready)] at hstep
  rcases runWord_raises_or_keeps w { s with inputs := rest } with ⟨k', hk, hrun⟩ | ⟨-, t', hrun, hkeeps⟩ <;>
    obtain rfl := Host.Outcome.next.inj (hrun.symm.trans hstep)
  · obtain ⟨rfl, rfl⟩ : k' = k ∧ w = c := by simpa using hrecord
    exact ⟨rfl, hk⟩
  · simp [hkeeps, hready.1] at hrecord

/-! What it means that a word raises a kind. -/

theorem wordKind_eq_illegalCommand_iff (w : Word) : wordKind w = some .illegalCommand ↔ decode w = none := by
  cases hd : decode w <;> simp [wordKind, hd, raisedKind_ne_illegalCommand]

theorem wordKind_of_decode {w : Word} {i : Instr} (h : decode w = some i) : wordKind w = raisedKind i := by
  simp [wordKind, h]

theorem exists_decode_of_wordKind {w : Word} {k : FaultKind} (h : wordKind w = some k) (hk : k ≠ .illegalCommand) :
    ∃ i, decode w = some i ∧ raisedKind i = some k := by
  cases hd : decode w with
  | none => exact absurd (Option.some.inj (h.symm.trans ((wordKind_eq_illegalCommand_iff w).2 hd))) hk
  | some i => exact ⟨i, rfl, (wordKind_of_decode hd).symm.trans h⟩

end Sys2Proof.Machine
end

section
/-! SUPPORT. The statements about faults (60_exceptions.md R201 to R208). -/

namespace Sys2Proof.Machine

theorem mem_usedIndices_iff (r : Addr) : r ∈ ([0, 1, 2, 3, 4, 6, 8] : List Addr) ↔ usedCell r ≠ none := by
  revert r
  decide

theorem held_of_fault {s : State} {f : FaultRecord} (h : s.fault = some f) : held s = some .faulted := by
  simp [held, h]

theorem step_blockReset {s : State} {rest : List Input} (h : s.inputs = .blockReset :: rest) :
    step s = .next (blockReset { s with inputs := rest }) := by
  simp [step, h]

/-- Settles O40: a held block takes no command and no empty input, and a block reset clears the record. -/
theorem faultedBlockIsStuck : Obligations.FaultedBlockIsStuck := by
  intro s f hf
  have hheld := held_of_fault hf
  refine ⟨fun w rest hin => step_held s .faulted (.inr ⟨w, rest, hin⟩) hheld,
    fun hin => step_held s .faulted (.inl hin) hheld, fun t ht => ?_,
    fun rest hin => ⟨_, step_blockReset hin, rfl⟩⟩
  have hnotReady : ¬s.Ready := fun hready => by simp [hready.1] at hf
  rcases step_next_cases ht with ⟨rest, hin, rfl⟩ | ⟨w, rest, -, hready, -⟩ | ⟨-, hready, -⟩
  · exact ⟨⟨rest, hin⟩, rfl⟩
  · exact absurd hready hnotReady
  · exact absurd hready hnotReady

/-- Settles O4: the conditions are those on which the decoder gives nothing. -/
theorem illegalWordsAreTheListedOnes : Obligations.IllegalWordsAreTheListedOnes := by
  intro s w rest hin hready
  dsimp only
  rw [← decode_eq_none_iff]
  refine ⟨fun hd => ⟨hd, ?_⟩, fun hd => ?_⟩
  · exact step_of_wordKind hin hready ((wordKind_eq_illegalCommand_iff w).2 hd)
  · obtain ⟨i, hi⟩ := Option.ne_none_iff_exists'.1 hd
    exact ⟨i, hi, step_of_decode hin hready hi⟩

/-- Settles O35: a record is of the kind that the presented word raises. -/
theorem faultKindsAndTheirCauses : Obligations.FaultKindsAndTheirCauses := by
  refine ⟨rfl, rfl, rfl, rfl, fun s t w rest hin hready hstep k c hrecord => ?_⟩
  obtain ⟨hc, hk⟩ := record_of_step hin hready hstep hrecord
  refine ⟨hc, ?_⟩
  cases k with
  | illegalCommand => exact (wordKind_eq_illegalCommand_iff w).1 hk
  | badIndex =>
    obtain ⟨i, hd, hi⟩ := exists_decode_of_wordKind hk (by decide)
    cases i with
    | apply r m v => exact .inl ⟨r, m, v, hd, (raisedKind_apply_badIndex_iff r m v).1 hi⟩
    | commit r => exact .inr (.inl ⟨r, hd, (raisedKind_commit_badIndex_iff r).1 hi⟩)
    | read r => exact .inr (.inr ⟨r, hd, (raisedKind_read_badIndex_iff r).1 hi⟩)
    | rstimg | write => cases hi
  | valueOutsideMask =>
    obtain ⟨i, hd, hi⟩ := exists_decode_of_wordKind hk (by decide)
    obtain ⟨r, m, v, rfl, -, hv⟩ := (raisedKind_eq_valueOutsideMask_iff i).1 hi
    exact ⟨r, m, v, hd, hv⟩

/-- Settles O36, command by command. -/
theorem badIndexIsRaisedExactlyThere : Obligations.BadIndexIsRaisedExactlyThere := by
  intro i s hfault
  obtain ⟨t, hexec, hrecord⟩ := exec_records_raisedKind i hfault
  refine ⟨t, hexec, (hrecord .badIndex).trans ?_⟩
  cases i with
  | apply r m v => exact raisedKind_apply_badIndex_iff r m v
  | commit r => exact raisedKind_commit_badIndex_iff r
  | read r => exact raisedKind_read_badIndex_iff r
  | rstimg | write => simp [raisedKind]

/-- Settles O37: of the commands only APPLY raises this kind. -/
theorem valueOutsideMaskIsRaisedExactlyThere : Obligations.ValueOutsideMaskIsRaisedExactlyThere := by
  intro i s hfault
  obtain ⟨t, hexec, hrecord⟩ := exec_records_raisedKind i hfault
  simp only [mem_usedIndices_iff]
  exact ⟨t, hexec, (hrecord .valueOutsideMask).trans (raisedKind_eq_valueOutsideMask_iff i)⟩

/-- Settles O38: a word's kind is IllegalCommand when it does not decode, and APPLY's index comes before its value. -/
theorem faultPriority : Obligations.FaultPriority := by
  intro s w rest hin hready
  have hbad {r : Addr} {m v : Byte} (hd : decode w = some (.apply r m v))
      (hr : r.toNat = 5 ∨ r.toNat = 7 ∨ 9 ≤ r.toNat) :
      step s = .next { s with inputs := rest, fault := some ⟨.badIndex, w⟩ } :=
    step_of_wordKind hin hready ((wordKind_of_decode hd).trans ((raisedKind_apply_badIndex_iff r m v).2 hr))
  refine ⟨fun hd => step_of_wordKind hin hready ((wordKind_eq_illegalCommand_iff w).2 hd),
    fun r m v hd hr _ => hbad hd hr, fun hw => ?_⟩
  have hd : decode w = some (.apply 5 0x00 0x01) := by
    rw [hw]
    decide
  exact ⟨hd, hbad hd (.inl rfl)⟩

/-- Settles O39: the step is that of the kind the word raises, and a faulted block is stuck (R208). -/
theorem raisingAFaultHasNoOtherEffect : Obligations.RaisingAFaultHasNoOtherEffect := by
  intro s t w rest hin hready hstep hfault
  obtain ⟨f, hf⟩ := Option.ne_none_iff_exists'.1 hfault
  obtain ⟨-, hk⟩ := record_of_step hin hready hstep hf
  obtain rfl := Host.Outcome.next.inj ((step_of_wordKind hin hready hk).symm.trans hstep)
  obtain ⟨hcommand, -, -, hreset⟩ := faultedBlockIsStuck _ _ hf
  exact ⟨⟨f.kind, rfl⟩, hcommand, hreset⟩

end Sys2Proof.Machine
end

section
/-! SUPPORT. The statements about block reset and about the host's obligation (70_reset_and_hazards.md R230, R239). -/

namespace Sys2Proof.Machine

theorem readCell_resetWith (c : BlockConfig) (i : CellIndex) :
    (State.resetWith c).readCell i = (defaultCell i).getD 0x00 := by
  fin_cases i <;> rfl

@[simp] theorem readCell_blockReset (s : State) (i : CellIndex) :
    (blockReset s).readCell i = (defaultCell i).getD 0x00 :=
  readCell_resetWith s.config i

/-! Each well-formedness check says what the index names and whether the value is confined (R239). -/

section
variable (r : Addr) (m v : Byte)

theorem wellFormed_apply_iff :
    (Instr.apply r m v).wellFormed = true ↔ usedCell r ≠ none ∧ v &&& ~~~m = 0 := by
  rw [← mem_usedIndices_iff, Instr.wellFormed, Bool.and_eq_true, List.contains_iff_mem, beq_iff_eq]

theorem wellFormed_commit_iff : (Instr.commit r).wellFormed = true ↔ usedCell r ≠ none := by
  rw [← mem_usedIndices_iff, Instr.wellFormed, List.contains_iff_mem]

theorem wellFormed_read_iff : (Instr.read r).wellFormed = true ↔ readableCell r ≠ none := by
  rw [ne_eq, readableCell_eq_none_iff, Instr.wellFormed, decide_eq_true_iff, not_le, Nat.lt_succ_iff]

end

/-- The well-formed commands are those that raise no kind of fault. -/
theorem wellFormed_iff_raisedKind_eq_none (i : Instr) : i.wellFormed = true ↔ raisedKind i = none := by
  cases i with
  | rstimg | write => simp [Instr.wellFormed, raisedKind]
  | apply r m v =>
    rw [wellFormed_apply_iff, ← outsideMask_eq_false_iff]
    cases hu : usedCell r <;> simp [raisedKind, hu]
  | commit r => simp [wellFormed_commit_iff, raisedKind]
  | read r => simp [wellFormed_read_iff, raisedKind]

/-- A block with a fault recorded is stuck on whatever command comes next (60_exceptions.md R208). -/
theorem step_command_of_fault {s : State} {f : FaultRecord} (hf : s.fault = some f) (w : Word) (rest : List Input) :
    step { s with inputs := .command w :: rest } = .fault .faulted :=
  step_held _ .faulted (.inr ⟨w, rest, rfl⟩) (held_of_fault hf)

/-- Settles O9: the reset state's fields are the listed values, its cells the defaults, and a READ of a reserved cell
appends a draw to the empty trace. -/
theorem blockResetSetsTheResetValues : Obligations.BlockResetSetsTheResetValues := by
  intro s rest hin
  have hcell := readCell_blockReset { s with inputs := rest }
  exact ⟨_, step_blockReset hin, rfl, rfl, hcell 0, hcell 1, hcell 2, hcell 3, hcell 4, hcell 6, hcell 8, rfl, rfl, rfl,
    fun r i hr hi => ⟨_, s.draws, execRead_reserved hr ((isReserved_eq_true_iff i).2 hi) _, rfl⟩⟩

/-- Settles O33: a command raises its kind or keeps the record, and only a well-formed one has no kind. -/
theorem onlyIllFormedCommandsFault : Obligations.OnlyIllFormedCommandsFault := by
  rintro i s ⟨hfault, -⟩
  rw [← Bool.not_eq_true, wellFormed_iff_raisedKind_eq_none]
  rcases exec_raises_or_keeps i s with ⟨k, hk, he⟩ | ⟨hk, t, he, ht⟩
  · exact ⟨fun hnone => by simp [hk] at hnone, fun _ => ⟨_, he, by simp, step_command_of_fault rfl⟩⟩
  · exact ⟨fun _ => ⟨t, he, ht.trans hfault⟩, fun hsome => absurd hk hsome⟩

end Sys2Proof.Machine
end

section
/-! SUPPORT. The statements about the encoding (30_encoding.md R81 to R89). -/

namespace Sys2Proof.Machine

/-- Settles O1, by the two directions of the decoder's laws. -/
theorem decodeAndEncodeAgree : Obligations.DecodeAndEncodeAgree :=
  ⟨decode_encode, fun _ _ => encode_of_decode⟩

/-- Settles O2: the words written out, and the decoder gives back what is encoded. -/
theorem exampleWordsDecode : Obligations.ExampleWordsDecode := by
  have hrstimg : encode .rstimg = 0x10000000 := by decide
  have happly : encode (.apply 8 0x03 0x02) = 0x28000302 := by decide
  have hcommit : encode (.commit 8) = 0x48000000 := by decide
  have hwrite : encode (.write 14 0x05) = 0x3E000005 := by decide
  have hread : encode (.read 3) = 0x53000000 := by decide
  exact ⟨hrstimg, happly, hcommit, hwrite, hread, hrstimg ▸ decode_encode _, happly ▸ decode_encode _,
    hcommit ▸ decode_encode _, hwrite ▸ decode_encode _, hread ▸ decode_encode _⟩

/-- Settles O3: a word that decodes is its command's word, whose fields are the operands. -/
theorem operandsAreBitSlices : Obligations.OperandsAreBitSlices := by
  refine fun w => ⟨fun r m v h => ?_, fun a d h => ?_, fun r h => ?_⟩
  · obtain rfl := encode_of_decode h
    simp only [← rField_toNat, ← mField_toNat, ← vField_toNat, encode, rField_commandWord, mField_commandWord,
      vField_commandWord, and_self]
  · obtain rfl := encode_of_decode h
    simp only [← rField_toNat, ← vField_toNat, encode, rField_commandWord, vField_commandWord, and_self]
  · rcases h with h | h <;> obtain rfl := encode_of_decode h <;>
      simp only [← rField_toNat, encode, rField_commandWord]

theorem frameWord_eq_append (a : Addr) (d : Byte) : frameWord a d = d ++ a := by
  apply BitVec.eq_of_getLsbD_eq
  intro k hk
  rcases Nat.lt_or_ge k 4 with hk' | hk'
  · rw [frameWord_getLsbD_addr a d hk', BitVec.getLsbD_append, if_pos hk']
  · obtain ⟨j, rfl⟩ := Nat.exists_eq_add_of_le hk'
    rw [frameWord_getLsbD_data a d (by omega), BitVec.getLsbD_append, if_neg (by omega), Nat.add_sub_cancel_left]

theorem frameWord_toNat (a : Addr) (d : Byte) : (frameWord a d).toNat = d.toNat * 16 + a.toNat := by
  rw [frameWord_eq_append]
  exact toNat_append_eq_add d a

/-- Settles O5: the frame word is the payload above the address. -/
theorem frameSlotsCarryAddressAndPayload : Obligations.FrameSlotsCarryAddressAndPayload :=
  fun a d => ⟨frameWord_toNat a d, pairOfSlots_frameWord a d⟩

end Sys2Proof.Machine
end

section
/-! SUPPORT. Everything a command can do to a state, said once, and what follows for every command: which state is at
rest, which cells and which configuration stay (10_state.md R33, R34, R44, R47). -/

namespace Sys2Proof.Machine

theorem usedCell_not_reserved {r : Addr} {i : CellIndex} (hu : usedCell r = some i) : i ≠ 5 ∧ i ≠ 7 := by
  obtain ⟨-, hres⟩ := (usedCell_eq_some_iff r i).1 hu
  rw [← Bool.not_eq_true, isReserved_eq_true_iff, not_or] at hres
  exact hres

theorem execCommit_of_usedCell {r : Addr} {i : CellIndex} (hu : usedCell r = some i) (s : State) :
    exec (.commit r) s = .next (frame r (s.readCell i) s) := by
  obtain ⟨h5, h7⟩ := usedCell_not_reserved hu
  exact execCommit_used ((usedCell_eq_some_iff r i).1 hu).1 h5 h7 s

/-- A command raises a fault, loads the defaults, writes a used cell, sends a frame, or reports a cell or a draw. -/
theorem exec_next_cases {i : Instr} {s t : State} (h : exec i s = .next t) :
    (∃ k, t = raiseFault k (encode i) s) ∨ t = s.loadDefaults ∨
    (∃ j v, j ≠ 5 ∧ j ≠ 7 ∧ t = s.writeCell j v) ∨ (∃ a d, t = frame a d s) ∨
    (∃ j v, t = s.emit (.readData j v) ∨ t = s.countDraw.emit (.readData j v)) := by
  cases i with
  | rstimg => exact .inr (.inl (Host.Outcome.next.inj h).symm)
  | apply r m v =>
    rcases execApply_cases r m v s with ⟨-, he⟩ | ⟨i, -, -, he⟩ | ⟨i, hu, -, he⟩ <;>
      obtain rfl := Host.Outcome.next.inj (he.symm.trans h)
    · exact .inl ⟨_, rfl⟩
    · exact .inl ⟨_, rfl⟩
    · obtain ⟨h5, h7⟩ := usedCell_not_reserved hu
      exact .inr (.inr (.inl ⟨i, _, h5, h7, rfl⟩))
  | write a d => exact .inr (.inr (.inr (.inl ⟨a, d, (Host.Outcome.next.inj h).symm⟩)))
  | commit r =>
    rcases execCommit_cases r s with ⟨-, he⟩ | ⟨i, -, he⟩ <;>
      obtain rfl := Host.Outcome.next.inj (he.symm.trans h)
    · exact .inl ⟨_, rfl⟩
    · exact .inr (.inr (.inr (.inl ⟨r, _, rfl⟩)))
  | read r =>
    rcases execRead_cases r s with ⟨-, he⟩ | ⟨i, -, -, he⟩ | ⟨i, -, -, he⟩ <;>
      obtain rfl := Host.Outcome.next.inj (he.symm.trans h)
    · exact .inl ⟨_, rfl⟩
    · exact .inr (.inr (.inr (.inr ⟨i, _, .inr rfl⟩)))
    · exact .inr (.inr (.inr (.inr ⟨i, _, .inl rfl⟩)))

/-! The rest condition. -/

theorem readTrace_append (es es' : List Event) : readTrace (es ++ es') = es'.foldl readerStep (readTrace es) :=
  List.foldl_append

/-- The reader follows the lines. -/
theorem readerStep_levels (r : LineReader) (e : Event) : (readerStep r e).levels = levelsStep r.levels e := by
  unfold readerStep
  dsimp only
  split_ifs <;> rfl

theorem foldl_readerStep_levels (es : List Event) (r : LineReader) :
    (es.foldl readerStep r).levels = levelsAfter r.levels es := by
  induction es generalizing r with
  | nil => rfl
  | cons e es ih => rw [List.foldl_cons, ih, readerStep_levels, levelsAfter, levelsAfter, List.foldl_cons]

theorem State.AtRest.frame {s : State} (hrest : s.AtRest) (a : Addr) (d : Byte) :
    (Machine.frame a d s).AtRest := by
  obtain ⟨p, hread⟩ := foldl_frameListing s.config a d (readTrace s.trace) hrest.wholeFrames
  rw [frame_eq_rest]
  refine ⟨rfl, rfl, rfl, hrest.outputs, ?_, ?_⟩
  · rw [readTrace_append, foldl_readerStep_levels, levelsAfter_frameListing]
  · rw [readTrace_append, hread]

theorem State.AtRest.emit_readData {s : State} (hrest : s.AtRest) (i : CellIndex) (v : Byte) :
    (s.emit (.readData i v)).AtRest := by
  have hread : readTrace (s.emit (.readData i v)).trace = readTrace s.trace := by
    rw [State.emit_trace, readTrace_append, List.foldl_cons, readerStep_readData, List.foldl_nil]
  obtain ⟨hidle, hclk, hlatch, hdirs, hlevels, hwhole⟩ := hrest
  exact ⟨hidle, hclk, hlatch, hdirs, by rw [hread]; exact hlevels, by rw [hread]; exact hwhole⟩

/-- What does not touch the sequencer, the lines, the pins and the trace keeps the rest condition. -/
theorem State.AtRest.of_same_lines {s t : State} (hrest : s.AtRest) (hphase : t.phase = s.phase)
    (hlevels : t.levels = s.levels) (hdirs : t.dirs = s.dirs) (htrace : t.trace = s.trace) : t.AtRest := by
  obtain ⟨hidle, hclk, hlatch, hout, htl, hwhole⟩ := hrest
  constructor <;> simpa only [hphase, hlevels, hdirs, htrace]

theorem atRest_resetWith (c : BlockConfig) : (State.resetWith c).AtRest := ⟨rfl, rfl, rfl, rfl, rfl, rfl⟩

theorem exec_keeps_atRest {i : Instr} {s t : State} (hrest : s.AtRest) (h : exec i s = .next t) : t.AtRest := by
  rcases exec_next_cases h with ⟨k, rfl⟩ | rfl | ⟨j, v, -, -, rfl⟩ | ⟨a, d, rfl⟩ | ⟨j, v, rfl | rfl⟩
  · exact hrest.of_same_lines rfl rfl rfl rfl
  · exact hrest.of_same_lines rfl rfl rfl rfl
  · exact hrest.of_same_lines rfl rfl rfl rfl
  · exact hrest.frame a d
  · exact hrest.emit_readData j v
  · exact (hrest.of_same_lines (t := s.countDraw) rfl rfl rfl rfl).emit_readData j v

theorem runWord_keeps_atRest {w : Word} {s t : State} (hrest : s.AtRest) (h : runWord w s = .next t) : t.AtRest := by
  rcases runWord_next_cases h with ⟨i, -, he⟩ | ⟨-, rfl⟩
  · exact exec_keeps_atRest hrest he
  · exact hrest.of_same_lines rfl rfl rfl rfl

/-- Settles O12, by the cases of a step: a block reset leaves the reset values, a command word ends between two frames,
and an idle block stays. -/
theorem stepKeepsTheRestCondition : Obligations.StepKeepsTheRestCondition := by
  intro s t hrest h
  rcases step_next_cases h with ⟨rest, -, rfl⟩ | ⟨w, rest, -, -, hw⟩ | ⟨-, -, rfl⟩
  · exact (atRest_resetWith s.config).of_same_lines rfl rfl rfl rfl
  · exact runWord_keeps_atRest (hrest.of_same_lines (t := { s with inputs := rest }) rfl rfl rfl rfl) hw
  · exact hrest

/-! The reserved cells and the configuration. -/

/-- Settles O20: RSTIMG has no default for them, and an update is of a used cell. -/
theorem reservedCellsAreNeverWritten : Obligations.ReservedCellsAreNeverWritten := by
  intro i s t h
  rcases exec_next_cases h with ⟨k, rfl⟩ | rfl | ⟨j, v, h5, h7, rfl⟩ | ⟨a, d, rfl⟩ | ⟨j, v, rfl | rfl⟩
  · exact ⟨rfl, rfl⟩
  · exact ⟨readCell_loadDefaults s 5, readCell_loadDefaults s 7⟩
  · exact ⟨readCell_writeCell_other s h5.symm v, readCell_writeCell_other s h7.symm v⟩
  · exact ⟨readCell_frame a d s 5, readCell_frame a d s 7⟩
  · exact ⟨rfl, rfl⟩
  · exact ⟨rfl, rfl⟩

theorem exec_config {i : Instr} {s t : State} (h : exec i s = .next t) : t.config = s.config := by
  rcases exec_next_cases h with ⟨k, rfl⟩ | rfl | ⟨j, v, -, -, rfl⟩ | ⟨a, d, rfl⟩ | ⟨j, v, rfl | rfl⟩
  · rfl
  · rfl
  · rfl
  · exact frame_config a d s
  · rfl
  · rfl

/-- Settles O55, by the cases of a step. -/
theorem configurationIsFixed : Obligations.ConfigurationIsFixed := by
  intro s t h
  rcases step_next_cases h with ⟨rest, -, rfl⟩ | ⟨w, rest, -, -, hw⟩ | ⟨-, -, rfl⟩
  · rfl
  · rcases runWord_next_cases hw with ⟨i, -, he⟩ | ⟨-, rfl⟩
    · exact (exec_config he :)
    · rfl
  · rfl

end Sys2Proof.Machine
end

section
/-! SUPPORT. Every sequence of well-formed commands runs to its end (70_reset_and_hazards.md R239, 20_memory.md R71). -/

namespace Sys2Proof.Machine

/-- A well-formed command of a block that accepts commands leaves it accepting them. -/
theorem exec_of_wellFormed {i : Instr} (hi : i.wellFormed = true) {s : State} (hready : s.Ready) :
    ∃ t, exec i s = .next t ∧ t.Ready ∧ t.inputs = s.inputs ∧ ∃ es, t.trace = s.trace ++ es := by
  obtain ⟨hfault, hidle⟩ := hready
  obtain ⟨t, hexec, hinputs, hphase⟩ := exec_next i s
  rcases exec_raises_or_keeps i s with ⟨k, hk, -⟩ | ⟨-, t', hexec', hkeeps⟩
  · simp [(wellFormed_iff_raisedKind_eq_none i).1 hi] at hk
  · obtain rfl := Host.Outcome.next.inj (hexec.symm.trans hexec')
    exact ⟨t, hexec, ⟨hkeeps.trans hfault, hphase.elim (·.trans hidle) id⟩, hinputs, exec_trace_append hexec⟩

/-- Settles O34, by induction on the list of commands. -/
theorem wellFormedSequencesRunSafely : Obligations.WellFormedSequencesRunSafely := by
  intro is
  induction is with
  | nil => exact fun s hready _ => ⟨s, rfl, hready, rfl, [], (List.append_nil _).symm⟩
  | cons i is ih =>
    intro s hready hwf
    obtain ⟨hi, his⟩ := List.forall_mem_cons.1 hwf
    obtain ⟨t, hexec, hreadyt, hinputs, es, htrace⟩ := exec_of_wellFormed hi hready
    obtain ⟨u, hrun, hreadyu, hinputsu, es', htraceu⟩ := ih t hreadyt his
    exact ⟨u, (runCommands_cons_of_exec hready hexec is).trans hrun, hreadyu, hinputsu.trans hinputs, es ++ es',
      by rw [htraceu, htrace, List.append_assoc]⟩

end Sys2Proof.Machine
end

section
/-! SUPPORT. What the reserved cells hold reaches nothing (10_state.md R34): every operation takes two states that
differ only there to two such states. -/

namespace Sys2Proof.Machine

theorem sameButReserved_iff (s s' : State) :
    SameButReserved s s' ↔
      ∃ img, s' = { s with img := img } ∧ ∀ i : CellIndex, i ≠ 5 → i ≠ 7 → img[i] = s.img[i] :=
  ⟨fun ⟨himg, hcells⟩ => ⟨s'.img, himg, hcells⟩, fun ⟨_, h, hcells⟩ => by subst h; exact ⟨rfl, hcells⟩⟩

namespace SameButReserved

variable {s s' : State} (h : SameButReserved s s')
include h

theorem raiseFault (k : FaultKind) (w : Word) :
    SameButReserved (Machine.raiseFault k w s) (Machine.raiseFault k w s') := by
  obtain ⟨img, rfl, hcells⟩ := (sameButReserved_iff _ _).1 h
  exact ⟨rfl, hcells⟩

theorem takeInput (rest : List Input) : SameButReserved { s with inputs := rest } { s' with inputs := rest } := by
  obtain ⟨img, rfl, hcells⟩ := (sameButReserved_iff _ _).1 h
  exact ⟨rfl, hcells⟩

theorem blockReset : SameButReserved (Machine.blockReset s) (Machine.blockReset s') := by
  obtain ⟨img, rfl, -⟩ := (sameButReserved_iff _ _).1 h
  exact ⟨rfl, fun _ _ _ => rfl⟩

theorem emit (e : Event) : SameButReserved (s.emit e) (s'.emit e) := by
  obtain ⟨img, rfl, hcells⟩ := (sameButReserved_iff _ _).1 h
  exact ⟨rfl, hcells⟩

theorem countDraw : SameButReserved s.countDraw s'.countDraw := by
  obtain ⟨img, rfl, hcells⟩ := (sameButReserved_iff _ _).1 h
  exact ⟨rfl, hcells⟩

theorem nextDraw : s'.nextDraw = s.nextDraw := by
  obtain ⟨img, rfl, -⟩ := (sameButReserved_iff _ _).1 h
  rfl

theorem held : Machine.held s' = Machine.held s := by
  obtain ⟨img, rfl, -⟩ := (sameButReserved_iff _ _).1 h
  rfl

theorem inputs : s'.inputs = s.inputs := by
  obtain ⟨img, rfl, -⟩ := (sameButReserved_iff _ _).1 h
  rfl

theorem observe : Machine.observe s' = Machine.observe s := by
  obtain ⟨img, rfl, -⟩ := (sameButReserved_iff _ _).1 h
  rfl

theorem frame (a : Addr) (d : Byte) : SameButReserved (Machine.frame a d s) (Machine.frame a d s') := by
  obtain ⟨img, rfl, hcells⟩ := (sameButReserved_iff _ _).1 h
  rw [frame_eq, frame_eq]
  exact ⟨rfl, hcells⟩

theorem loadDefaults : SameButReserved s.loadDefaults s'.loadDefaults := by
  obtain ⟨himg, hcells⟩ := h
  refine ⟨by rw [himg]; rfl, fun i h5 h7 => ?_⟩
  rw [readCell_loadDefaults, readCell_loadDefaults, hcells i h5 h7]

theorem writeCell (i : CellIndex) (v : Byte) : SameButReserved (s.writeCell i v) (s'.writeCell i v) := by
  obtain ⟨himg, hcells⟩ := h
  refine ⟨by rw [himg]; rfl, fun j h5 h7 => ?_⟩
  rcases eq_or_ne j i with rfl | hj
  · rw [readCell_writeCell_same, readCell_writeCell_same]
  · rw [readCell_writeCell_other s' hj, readCell_writeCell_other s hj, hcells j h5 h7]

theorem readCell {i : CellIndex} (hi : isReserved i = false) : s'.readCell i = s.readCell i := by
  rw [← Bool.not_eq_true, isReserved_eq_true_iff, not_or] at hi
  exact h.2 i hi.1 hi.2

theorem exec (i : Instr) :
    ∃ t t', Machine.exec i s = .next t ∧ Machine.exec i s' = .next t' ∧ SameButReserved t t' := by
  cases i with
  | rstimg => exact ⟨_, _, rfl, rfl, h.loadDefaults⟩
  | apply r m v =>
    cases hu : usedCell r with
    | none =>
      have hr := (usedCell_eq_none_iff r).1 hu
      exact ⟨_, _, execApply_badIndex hr m v s, execApply_badIndex hr m v s', h.raiseFault _ _⟩
    | some i =>
      by_cases hv : v &&& ~~~m = 0
      · refine ⟨_, _, execApply_confined hu hv s, execApply_confined hu hv s', ?_⟩
        rw [h.readCell ((usedCell_eq_some_iff r i).1 hu).2]
        exact h.writeCell i _
      · exact ⟨_, _, execApply_outsideMask hu hv s, execApply_outsideMask hu hv s', h.raiseFault _ _⟩
  | write a d => exact ⟨_, _, rfl, rfl, h.frame a d⟩
  | commit r =>
    cases hu : usedCell r with
    | none =>
      have hr := (usedCell_eq_none_iff r).1 hu
      exact ⟨_, _, execCommit_badIndex hr s, execCommit_badIndex hr s', h.raiseFault _ _⟩
    | some i =>
      refine ⟨_, _, execCommit_of_usedCell hu s, execCommit_of_usedCell hu s', ?_⟩
      rw [h.readCell ((usedCell_eq_some_iff r i).1 hu).2]
      exact h.frame r _
  | read r =>
    cases hu : readableCell r with
    | none =>
      have hr := (readableCell_eq_none_iff r).1 hu
      exact ⟨_, _, execRead_badIndex hr s, execRead_badIndex hr s', h.raiseFault _ _⟩
    | some i =>
      have hr := (readableCell_eq_some_iff r i).1 hu
      cases hi : isReserved i with
      | true =>
        refine ⟨_, _, execRead_reserved hr hi s, execRead_reserved hr hi s', ?_⟩
        rw [h.nextDraw]
        exact h.countDraw.emit _
      | false =>
        refine ⟨_, _, execRead_used hr hi s, execRead_used hr hi s', ?_⟩
        rw [h.readCell hi]
        exact h.emit _

theorem runWord (w : Word) :
    ∃ t t', Machine.runWord w s = .next t ∧ Machine.runWord w s' = .next t' ∧ SameButReserved t t' := by
  cases hd : decode w with
  | some i => simpa only [runWord_of_decode hd] using h.exec i
  | none => exact ⟨_, _, by rw [Machine.runWord, hd], by rw [Machine.runWord, hd], h.raiseFault _ _⟩

/-- Both step on, or both stop for the same reason. -/
theorem step :
    (∃ t t', Machine.step s = .next t ∧ Machine.step s' = .next t' ∧ SameButReserved t t') ∨
    (∃ f, Machine.step s = .fault f ∧ Machine.step s' = .fault f) ∨
    (∃ q, Machine.step s = .refused q ∧ Machine.step s' = .refused q) := by
  have hin := h.inputs
  have hheld := h.held
  simp only [Machine.step, hin, hheld]
  cases s.inputs with
  | nil =>
    cases Machine.held s with
    | none => exact .inl ⟨s, s', rfl, rfl, h⟩
    | some f => exact .inr (.inl ⟨f, rfl, rfl⟩)
  | cons input rest =>
    cases input with
    | blockReset => exact .inl ⟨_, _, rfl, rfl, (h.takeInput rest).blockReset⟩
    | secondHost w => exact .inr (.inr ⟨_, rfl, rfl⟩)
    | command w =>
      cases Machine.held s with
      | none => exact .inl ((h.takeInput rest).runWord w)
      | some f => exact .inr (.inl ⟨f, rfl, rfl⟩)

end SameButReserved

/-- Settles O21: two states that differ only in the reserved cells make the same kind of step, and are observed alike
after it. -/
theorem reservedContentsReachNothing : Obligations.ReservedContentsReachNothing := by
  intro s s' h
  rcases h.step with ⟨t, t', hs, hs', ht⟩ | ⟨f, hs, hs'⟩ | ⟨q, hs, hs'⟩
  · simp [hs, hs', ht, ht.observe]
  · simp [hs, hs']
  · simp [hs, hs']

end Sys2Proof.Machine
end

section
/-! SUPPORT. The statements about the step, the reset state and RSTIMG (10_state.md R51, 60_exceptions.md R215,
70_reset_and_hazards.md R230 to R234). -/

namespace Sys2Proof.Machine

/-- Settles O7: a ready block is not held. -/
theorem idleBlockStays : Obligations.IdleBlockStays := by
  intro s hin hready
  rw [step, hin, (held_eq_none_iff s).2 hready]

/-- Settles O8: the kind of the input alone decides. -/
theorem secondHostIsRefused : Obligations.SecondHostIsRefused := by
  intro s w rest hin
  rw [step, hin]

/-- Settles O10: block reset keeps the model's own fields. -/
theorem blockResetKeepsInputsAndDraws : Obligations.BlockResetKeepsInputsAndDraws :=
  fun _ _ hin => ⟨_, step_blockReset hin, blockReset_inputs _, blockReset_draws _⟩

theorem ready_resetWith (c : BlockConfig) : (State.resetWith c).Ready := ⟨rfl, rfl⟩

/-- A block that accepts commands answers a next state on every word, an illegal one too. -/
theorem step_command_next {s : State} (hready : s.Ready) (w : Word) (rest : List Input) :
    ∃ t, step { s with inputs := .command w :: rest } = .next t := by
  have hstep : step { s with inputs := .command w :: rest } = runWord w { s with inputs := rest } :=
    step_command _ w rest rfl ((held_eq_none_iff _).2 hready)
  rw [hstep]
  rcases runWord_raises_or_keeps w { s with inputs := rest } with ⟨k, -, hrun⟩ | ⟨-, t, hrun, -⟩
  · exact ⟨_, hrun⟩
  · exact ⟨t, hrun⟩

/-- Settles O11: the reset values are the record's, and its cells are the defaults. -/
theorem resetStateIsReadyAndAtRest : Obligations.ResetStateIsReadyAndAtRest := by
  refine ⟨fun c => ⟨atRest_resetWith c, ready_resetWith c, rfl, rfl, rfl, fun i h5 h7 => ?_,
    step_command_next (ready_resetWith c)⟩, rfl, rfl, rfl, rfl⟩
  obtain ⟨v, hv⟩ := defaultCell_of_used h5 h7
  rw [readCell_resetWith, hv, Option.getD_some]

/-- Settles O18: the draw is counted and reported. -/
theorem reservedReadsAreFreshDraws : Obligations.ReservedReadsAreFreshDraws :=
  fun _ s i hr hi => execRead_reserved hr ((isReserved_eq_true_iff i).2 hi) s

/-- Settles O41: the reserved cells have no default, and a faulted block takes no command. -/
theorem rstimgIsNotBlockReset : Obligations.RstimgIsNotBlockReset := by
  refine ⟨fun s => ⟨_, execRstimg_eq s, rfl, fun i hi => ?_⟩, fun s f rest hf hin => ?_⟩
  · rcases hi with rfl | rfl <;> exact readCell_loadDefaults s _
  · exact step_held s .faulted (.inr ⟨_, rest, hin⟩) (held_of_fault hf)

end Sys2Proof.Machine
end

section
/-! SUPPORT. What a command that raises no fault changes (20_memory.md R67). -/

namespace Sys2Proof.Machine

/-- A fault that leaves the record as it was was recorded before, so nothing changes at all. -/
theorem raiseFault_eq_self {k : FaultKind} {w : Word} {s : State} (h : (raiseFault k w s).fault = s.fault) :
    raiseFault k w s = s := by
  rw [raiseFault, ← raiseFault_fault s k w, h]

theorem frame_changes_lines {s : State} (hidle : s.phase = .idle) (a : Addr) (d : Byte) :
    frame a d s = { s with levels := (frame a d s).levels, trace := (frame a d s).trace } := by
  rw [frame_eq, ← hidle]

/-- Settles O31, by the cases of each command. -/
theorem sideEffectsAreTheListedOnes : Obligations.SideEffectsAreTheListedOnes := by
  refine fun s t hidle hkeeps => ⟨fun h => ?_, fun r m v h => ?_, fun r h hnone => ?_, fun a d h => ?_, fun r h => ?_⟩
  · obtain rfl := Host.Outcome.next.inj ((execRstimg_eq s).symm.trans h)
    rfl
  · rcases execApply_cases r m v s with ⟨-, he⟩ | ⟨i, -, -, he⟩ | ⟨i, -, -, he⟩ <;>
      obtain rfl := Host.Outcome.next.inj (he.symm.trans h)
    · rw [raiseFault_eq_self hkeeps]
    · rw [raiseFault_eq_self hkeeps]
    · rfl
  · rcases execRead_cases r s with ⟨-, he⟩ | ⟨i, -, -, he⟩ | ⟨i, -, -, he⟩ <;>
      obtain rfl := Host.Outcome.next.inj (he.symm.trans h)
    · simp [hnone] at hkeeps
    · exact ⟨i, s.nextDraw, rfl⟩
    · exact ⟨i, s.readCell i, rfl⟩
  · obtain rfl := Host.Outcome.next.inj ((execWrite_eq a d s).symm.trans h)
    exact frame_changes_lines hidle a d
  · rcases execCommit_cases r s with ⟨-, he⟩ | ⟨i, -, he⟩ <;>
      obtain rfl := Host.Outcome.next.inj (he.symm.trans h)
    · rw [raiseFault_eq_self hkeeps]
    · exact frame_changes_lines hidle r _

end Sys2Proof.Machine
end

section
/-! SUPPORT. Two commands in a row: APPLY after APPLY (40_register_image.md R105), and READ and COMMIT after APPLY or
WRITE (10_state.md R42, 70_reset_and_hazards.md R237, R244). -/

namespace Sys2Proof.Machine

theorem runCommands_pair {i j : Instr} {s t u : State} (hready : s.Ready) (hreadyt : t.Ready)
    (hi : exec i s = .next t) (hj : exec j t = .next u) : runCommands [i, j] s = .next u :=
  (runCommands_cons_of_exec hready hi [j]).trans (runCommands_singleton hreadyt hj)

theorem State.Ready.writeCell {s : State} (hready : s.Ready) (i : CellIndex) (v : Byte) : (s.writeCell i v).Ready :=
  hready

theorem writeCell_writeCell_same (s : State) (i : CellIndex) (v w : Byte) :
    (s.writeCell i v).writeCell i w = s.writeCell i w := by
  simp [State.writeCell]

theorem writeCell_comm (s : State) {i j : CellIndex} (h : i ≠ j) (v w : Byte) :
    (s.writeCell i v).writeCell j w = (s.writeCell j w).writeCell i v := by
  have hne : i.val ≠ j.val := fun e => h (Fin.ext e)
  simp only [State.writeCell, Vector.set_comm _ _ hne]

section
variable {m m₁ m₂ v v₁ v₂ : Byte}

/-- The last writer wins, bit by bit. -/
theorem masked_masked_getLsbD (h₁ : v₁ &&& ~~~m₁ = 0) (h₂ : v₂ &&& ~~~m₂ = 0) (old : Byte) (k : Nat) :
    (masked (masked old m₁ v₁) m₂ v₂).getLsbD k =
      if m₂.getLsbD k then v₂.getLsbD k else if m₁.getLsbD k then v₁.getLsbD k else old.getLsbD k := by
  rw [masked_getLsbD_of_confined h₂, masked_getLsbD_of_confined h₁]

theorem masked_masked_same (hw : v₁ &&& ~~~m = 0) (hv : v &&& ~~~m = 0) (old : Byte) :
    masked (masked old m v₁) m v = masked old m v := by
  apply BitVec.eq_of_getLsbD_eq
  intro k _
  rw [masked_masked_getLsbD hw hv, masked_getLsbD_of_confined hv]
  split <;> rfl

theorem masked_comm_of_disjoint (h₁ : v₁ &&& ~~~m₁ = 0) (h₂ : v₂ &&& ~~~m₂ = 0) (hdisjoint : m₁ &&& m₂ = 0)
    (old : Byte) : masked (masked old m₁ v₁) m₂ v₂ = masked (masked old m₂ v₂) m₁ v₁ := by
  apply BitVec.eq_of_getLsbD_eq
  intro k _
  have hbit : (m₁.getLsbD k && m₂.getLsbD k) = false := by
    rw [← BitVec.getLsbD_and, hdisjoint]
    exact BitVec.getLsbD_zero
  rw [masked_masked_getLsbD h₁ h₂, masked_masked_getLsbD h₂ h₁]
  cases hm : m₁.getLsbD k <;> simp_all

end

/-- A well-formed APPLY is the masked update of a cell with a confined value. -/
theorem execApply_of_wellFormed {r : Addr} {m v : Byte} (h : (Instr.apply r m v).wellFormed = true) :
    ∃ i, usedCell r = some i ∧ v &&& ~~~m = 0 ∧
      ∀ s, exec (.apply r m v) s = .next (s.writeCell i (masked (s.readCell i) m v)) := by
  obtain ⟨hu, hv⟩ := (wellFormed_apply_iff r m v).1 h
  obtain ⟨i, hi⟩ := Option.ne_none_iff_exists'.1 hu
  exact ⟨i, hi, hv, execApply_confined hi hv⟩

/-- Two indices of one used cell are one index. -/
theorem usedCell_injective {r₁ r₂ : Addr} {i : CellIndex} (h₁ : usedCell r₁ = some i) (h₂ : usedCell r₂ = some i) :
    r₁ = r₂ := by
  rw [usedCell_eq_some_iff] at h₁ h₂
  exact BitVec.eq_of_toNat_eq (h₁.1.trans h₂.1.symm)

/-- Settles O16: two updates of one cell are one of the other's bits, and updates of two cells commute. -/
theorem applyLaws : Obligations.ApplyLaws := by
  intro s r₁ r₂ m₁ v₁ m₂ v₂ hready hwf₁ hwf₂
  obtain ⟨i, hi, hv₁, happly₁⟩ := execApply_of_wellFormed hwf₁
  obtain ⟨j, hj, hv₂, happly₂⟩ := execApply_of_wellFormed hwf₂
  have hrun₁₁ := runCommands_pair hready (hready.writeCell _ _) (happly₁ s) (happly₁ _)
  have hrun₁₂ := runCommands_pair hready (hready.writeCell _ _) (happly₁ s) (happly₂ _)
  have hrun₂₁ := runCommands_pair hready (hready.writeCell _ _) (happly₂ s) (happly₁ _)
  refine ⟨?_, ?_, fun hr => ?_, ?_⟩
  · rw [hrun₁₁, runCommands_singleton hready (happly₁ s), readCell_writeCell_same, writeCell_writeCell_same,
      masked_masked_same hv₁ hv₁]
  · rintro rfl hdisjoint
    obtain rfl := Option.some.inj (hi.symm.trans hj)
    rw [hrun₁₂, hrun₂₁]
    simp only [readCell_writeCell_same, writeCell_writeCell_same, masked_comm_of_disjoint hv₁ hv₂ hdisjoint]
  · have hij : i ≠ j := fun e => hr (usedCell_injective hi (e ▸ hj))
    rw [hrun₁₂, hrun₂₁, readCell_writeCell_other _ hij, readCell_writeCell_other _ hij.symm, writeCell_comm _ hij]
  · rintro rfl
    obtain rfl := Option.some.inj (hi.symm.trans hj)
    refine ⟨_, hrun₁₂, rfl, fun i' hi' k _ => ?_⟩
    obtain rfl : i' = i := Fin.ext (hi'.symm.trans ((usedCell_eq_some_iff _ i).1 hi).1)
    rw [readCell_writeCell_same, readCell_writeCell_same, masked_masked_getLsbD hv₁ hv₂]

/-- Settles O19: with the mask 0xFF every value is confined, and the cell becomes the value. -/
theorem everyBitOfAUsedCellCanBeWritten : Obligations.EveryBitOfAUsedCellCanBeWritten := by
  intro r v s i hr h5 h7
  have happly : exec (.apply r 0xFF v) s = .next (s.writeCell i v) := by
    rw [execApply_confined (usedCell_eq_some hr h5 h7) BitVec.and_zero, masked_allOnes]
  have hcell := readCell_writeCell_same s i v
  refine ⟨_, happly, hcell, ⟨_, execRead_used hr (isReserved_eq_false h5 h7) _, ?_⟩, _, _,
    execCommit_used hr h5 h7 _, ?_, frame_trace r _ _⟩
  · rw [hcell]
    rfl
  · rw [hcell]
    exact isFrame_frameListing _ r v

theorem State.Ready.frame {s : State} (hready : s.Ready) (a : Addr) (d : Byte) : (Machine.frame a d s).Ready := by
  rw [frame_eq]
  exact ⟨hready.1, rfl⟩

@[simp] theorem frame_img (a : Addr) (d : Byte) (s : State) : (frame a d s).img = s.img := by
  rw [frame_eq]

/-- Settles O29: a frame changes no cell, so what follows it uses the old value. -/
theorem writeDivergesFromTheImage : Obligations.WriteDivergesFromTheImage := by
  intro a d s i hready hr h5 h7
  have hreadyt := hready.frame a d
  have hread := execRead_used hr (isReserved_eq_false h5 h7) (frame a d s)
  have hcommit := execCommit_used hr h5 h7 (frame a d s)
  rw [readCell_frame] at hread hcommit
  exact ⟨_, _, _, _, runCommands_pair hready hreadyt (execWrite_eq a d s) hread,
    runCommands_pair hready hreadyt (execWrite_eq a d s) hcommit, frame_img a d s, by rw [frame_img, frame_img],
    isFrame_frameListing _ a d, isFrame_frameListing _ a _, by rw [State.emit_trace, frame_trace],
    by rw [frame_trace, frame_trace, frame_config]⟩

/-- Settles O30: READ and COMMIT use what the cell holds after the update. -/
theorem readAndCommitSeeTheApply : Obligations.ReadAndCommitSeeTheApply := by
  intro r m v s i hready hr h5 h7 hv
  have happly := execApply_confined (usedCell_eq_some hr h5 h7) hv s
  have hread := execRead_used hr (isReserved_eq_false h5 h7) (s.writeCell i (masked (s.readCell i) m v))
  have hcommit := execCommit_used hr h5 h7 (s.writeCell i (masked (s.readCell i) m v))
  rw [readCell_writeCell_same] at hread hcommit
  exact ⟨_, _, _, runCommands_pair hready (hready.writeCell _ _) happly hread,
    runCommands_pair hready (hready.writeCell _ _) happly hcommit, rfl, isFrame_frameListing _ r _, frame_trace r _ _⟩

end Sys2Proof.Machine
end

section
/-! SUPPORT. Several blocks side by side (60_exceptions.md R215). -/

namespace Sys2Proof.Machine

variable {n : Nat}

theorem stepInstance_eq_next_iff (k : Fin n) (xs ys : Vector Instance n) :
    stepInstance k xs = .next ys ↔
      ∃ t, step xs[k].state = .next t ∧ ys = xs.set k { xs[k] with state := t } := by
  unfold stepInstance
  cases step xs[k].state <;> simp [eq_comm]

/-- A step of one block changes the name of none. -/
theorem instanceId_of_stepInstance {k : Fin n} {xs ys : Vector Instance n} (h : stepInstance k xs = .next ys)
    (j : Fin n) : ys[j].state.config.instanceId = xs[j].state.config.instanceId := by
  obtain ⟨t, ht, rfl⟩ := (stepInstance_eq_next_iff k xs ys).1 h
  rcases eq_or_ne j k with rfl | hj
  · simp [configurationIsFixed _ _ ht]
  · simp [Vector.getElem_set_ne _ _ (fun e => hj (Fin.ext e.symm))]

/-- Settles O56: a step of one block puts its own next state in its own place. -/
theorem instancesAreIndependent : Obligations.InstancesAreIndependent := by
  intro n xs ys k h
  refine ⟨?_, fun j hj => ?_, fun j zs hj hz => ?_, fun hnames i j hij => ?_⟩
  · obtain ⟨t, ht, rfl⟩ := (stepInstance_eq_next_iff k xs ys).1 h
    exact ⟨t, ht, by simp⟩
  · obtain ⟨t, -, rfl⟩ := (stepInstance_eq_next_iff k xs ys).1 h
    exact Vector.getElem_set_ne _ _ fun e => hj (Fin.ext e.symm)
  · obtain ⟨t, ht, rfl⟩ := (stepInstance_eq_next_iff k xs ys).1 h
    obtain ⟨u, hu, rfl⟩ := (stepInstance_eq_next_iff j xs zs).1 hz
    have hkj : k.val ≠ j.val := fun e => hj (Fin.ext e.symm)
    have hjth : (xs.set k { xs[k] with state := t })[j] = xs[j] := Vector.getElem_set_ne _ _ hkj
    have hkth : (xs.set j { xs[j] with state := u })[k] = xs[k] := Vector.getElem_set_ne _ _ hkj.symm
    refine ⟨_, (stepInstance_eq_next_iff j _ _).2 ⟨u, by rw [hjth]; exact hu, rfl⟩,
      (stepInstance_eq_next_iff k _ _).2 ⟨t, by rw [hkth]; exact ht, ?_⟩⟩
    rw [hjth, hkth, Vector.set_comm _ _ hkj]
  · rw [instanceId_of_stepInstance h, instanceId_of_stepInstance h] at hij
    exact hnames i j hij

end Sys2Proof.Machine
end

section
/-! SUPPORT. The assembler's operand checks (30_encoding.md R90). -/

namespace Sys2Proof.Machine

theorem encode_injective {i j : Instr} (h : encode i = encode j) : i = j :=
  Option.some.inj (by rw [← decode_encode i, h, decode_encode])

/-- A list of one command is told by the number of its word. -/
theorem map_encode_toNat_eq_singleton_iff (is : List Instr) (i : Instr) :
    is.map (fun c => (encode c).toNat) = [(encode i).toNat] ↔ is = [i] := by
  refine ⟨fun h => ?_, fun h => by rw [h]; rfl⟩
  obtain ⟨j, rfl, hj⟩ := List.map_eq_singleton_iff.1 h
  rw [encode_injective (BitVec.eq_of_toNat_eq hj)]

/-- A line of one command assembles exactly when its operands are in range, and the word's number then tells the
command. -/
theorem eq_some_iff_in_range {line : Option (List Instr)} {inRange : Prop} {n : Nat}
    (hin : inRange → ∃ c, line = some [c] ∧ (encode c).toNat = n) (hout : ¬inRange → line = none) (is : List Instr) :
    line = some is ↔ inRange ∧ is.map (fun c => (encode c).toNat) = [n] := by
  by_cases hrange : inRange
  · obtain ⟨c, rfl, rfl⟩ := hin hrange
    rw [map_encode_toNat_eq_singleton_iff, Option.some.injEq, eq_comm]
    exact (and_iff_right hrange).symm
  · simp [hout hrange, hrange]

/-- Settles O52: each line makes one word from its operands, and an operand out of its range makes none. -/
theorem assemblerChecksOperandRanges : Obligations.AssemblerChecksOperandRanges := by
  intro p i m v is
  refine ⟨eq_some_iff_in_range ?_ ?_ is, eq_some_iff_in_range ?_ ?_ is, eq_some_iff_in_range ?_ ?_ is,
    eq_some_iff_in_range ?_ ?_ is⟩
  · rintro ⟨hi, hm, hv⟩
    refine ⟨.apply (.ofNat 4 i) (.ofNat 8 m) (.ofNat 8 v), ?_, ?_⟩
    · simp [expand, indexOperand, byteOperand, hi, hm, hv]
    · simp [encode, commandWord_toNat, Nat.mod_eq_of_lt, hi, hm, hv]
  · intro hrange
    simp only [expand, indexOperand, byteOperand]
    split_ifs <;> simp_all
  · rintro ⟨hi, hv⟩
    refine ⟨.write (.ofNat 4 i) (.ofNat 8 v), ?_, ?_⟩
    · simp [expand, indexOperand, byteOperand, hi, hv]
    · simp [encode, commandWord_toNat, Nat.mod_eq_of_lt, hi, hv]
  · intro hrange
    simp only [expand, indexOperand, byteOperand]
    split_ifs <;> simp_all
  · intro hi
    refine ⟨.commit (.ofNat 4 i), ?_, ?_⟩
    · simp [expand, indexOperand, hi]
    · simp [encode, commandWord_toNat, Nat.mod_eq_of_lt, hi]
  · intro hi
    simp [expand, indexOperand, hi]
  · intro hi
    refine ⟨.read (.ofNat 4 i), ?_, ?_⟩
    · simp [expand, indexOperand, hi]
    · simp [encode, commandWord_toNat, Nat.mod_eq_of_lt, hi]
  · intro hi
    simp [expand, indexOperand, hi]

end Sys2Proof.Machine
end

section
/-! SUPPORT. The sequencer in the middle of a frame (10_state.md R33, 41_bus_transport.md R121). -/

namespace Sys2Proof.Machine

theorem runSequencer_succ (n : Nat) (f : FrameWord) (s : State) :
    runSequencer (n + 1) f s = sequencerTick f (runSequencer n f s) := by
  induction n generalizing s with
  | zero => rfl
  | succ n ih => exact ih (sequencerTick f s)

theorem sequencerTick_of_phase {f : FrameWord} {s : State} {k : Fin 42} (h : s.phase = .at k) :
    sequencerTick f s = { s.perform (phaseEvent s.config f k) with phase := nextPhase k } := by
  rw [sequencerTick, h]

/-- After k events of a frame the sequencer is at phase k and the trace holds the first k of the listing. -/
theorem runSequencer_in_frame (a : Addr) (d : Byte) (s : State) (k : Nat) (hk : k < 42) :
    let t := runSequencer k (frameWord a d) { s with phase := .at 0 }
    t.phase = .at ⟨k, hk⟩ ∧ t.trace = s.trace ++ (frameListing s.config a d).take k ∧ t.config = s.config := by
  induction k with
  | zero => exact ⟨rfl, by simp [runSequencer], rfl⟩
  | succ k ih =>
    obtain ⟨hphase, htrace, hconfig⟩ := ih (by omega)
    have hevent := frameListing_getElem? s.config a d ⟨k, by omega⟩
    dsimp only at hphase htrace hconfig hevent ⊢
    rw [runSequencer_succ, sequencerTick_of_phase hphase, List.take_add_one, hevent]
    simp [htrace, hconfig, nextPhase, hk]

/-- Settles O24: the whole frame is the listing, and each tick appends its next event. -/
theorem sequencerEmitsTheListing : Obligations.SequencerEmitsTheListing := by
  refine fun a d s => ⟨isFrame_frameListing _ a d, frame_trace a d s, by rw [frame_eq], fun k => ?_⟩
  obtain ⟨hphase, htrace, -⟩ := runSequencer_in_frame a d s k k.isLt
  exact ⟨hphase, htrace⟩

end Sys2Proof.Machine
end

section
/-! SUPPORT. The levels, the samples and the edges of a frame (41_bus_transport.md R122, R124), slot by slot. -/

namespace Sys2Proof.Machine

theorem levelsAfter_append (p : PerLine Bool) (es es' : List Event) :
    levelsAfter p (es ++ es') = levelsAfter (levelsAfter p es) es' :=
  List.foldl_append

theorem sampled_append (p : PerLine Bool) (es es' : List Event) :
    sampled p (es ++ es') = sampled p es ++ sampled (levelsAfter p es) es' := by
  induction es generalizing p with
  | nil => rfl
  | cons e es ih => rw [List.cons_append, sampled, sampled, ih, List.append_assoc]; rfl

theorem edges_append (l : Line) (b : Bool) (p : PerLine Bool) (es es' : List Event) :
    edges l b p (es ++ es') = edges l b p es + edges l b (levelsAfter p es) es' := by
  induction es generalizing p with
  | nil => exact (Nat.zero_add _).symm
  | cons e es ih => rw [List.cons_append, edges, edges, ih, Nat.add_assoc]; rfl

/-- A line rises as often as it falls, but for the level it starts from and the one it ends at. -/
theorem edges_balance (l : Line) (p : PerLine Bool) (es : List Event) :
    (p.get l).toNat + edges l true p es = ((levelsAfter p es).get l).toNat + edges l false p es := by
  induction es generalizing p with
  | nil => rfl
  | cons e es ih =>
    have hnext := ih (levelsStep p e)
    have hlevels : levelsAfter p (e :: es) = levelsAfter (levelsStep p e) es := rfl
    rw [edges, edges, hlevels]
    cases hp : p.get l <;> cases hq : (levelsStep p e).get l <;> simp [hq] at hnext ⊢ <;> omega

theorem falls_eq_rises {l : Line} {p : PerLine Bool} {es : List Event} (h : (levelsAfter p es).get l = p.get l) :
    edges l false p es = edges l true p es := by
  have hbalance := edges_balance l p es
  rw [h] at hbalance
  omega

/-! One slot: CLK falls or is low, DATA takes the bit, CLK rises. -/

theorem sampled_slots (p : PerLine Bool) (bs : List Bool) : sampled p (bs.flatMap slotEvents) = bs := by
  induction bs generalizing p with
  | nil => rfl
  | cons b bs ih =>
    have hslot : sampled p (slotEvents b) = [b] := by
      simp [slotEvents, sampled, levelsStep, PerLine.put]
    rw [List.flatMap_cons, sampled_append, ih, hslot, List.singleton_append]

theorem rises_slots (p : PerLine Bool) (bs : List Bool) :
    edges .clk true p (bs.flatMap slotEvents) = bs.length ∧ edges .latch true p (bs.flatMap slotEvents) = 0 := by
  induction bs generalizing p with
  | nil => exact ⟨rfl, rfl⟩
  | cons b bs ih =>
    have hslot : edges .clk true p (slotEvents b) = 1 ∧ edges .latch true p (slotEvents b) = 0 := by
      simp [slotEvents, edges, levelsStep, PerLine.put, PerLine.get]
    obtain ⟨hclk, hlatch⟩ := ih (levelsAfter p (slotEvents b))
    rw [List.flatMap_cons, edges_append, edges_append, hslot.1, hslot.2, hclk, hlatch, List.length_cons]
    omega

theorem latch_slots (p : PerLine Bool) (bs : List Bool) :
    (levelsAfter p (bs.flatMap slotEvents)).latch = p.latch := by
  induction bs generalizing p with
  | nil => rfl
  | cons b bs ih => rw [List.flatMap_cons, levelsAfter_append, ih]; rfl

/-! After the slots CLK only falls and LATCH has its pulse. -/

theorem sampled_latchEvents (c : BlockConfig) (p : PerLine Bool) : sampled p (latchEvents c) = [] := by
  simp [latchEvents, sampled, levelsStep, PerLine.put]

theorem rises_latchEvents (c : BlockConfig) {p : PerLine Bool} (h : p.latch = false) :
    edges .clk true p (latchEvents c) = 0 ∧ edges .latch true p (latchEvents c) = 1 := by
  simp [latchEvents, edges, levelsStep, PerLine.put, PerLine.get, h]

theorem sampled_frameListing (c : BlockConfig) (a : Addr) (d : Byte) (p : PerLine Bool) :
    sampled p (frameListing c a d) = (List.range 12).map (frameWord a d).getLsbD := by
  have hfirst : sampled p [.drive .latch false] = [] := by simp [sampled, levelsStep, PerLine.put]
  rw [frameListing_eq_slots, sampled_append, sampled_latchEvents, List.append_nil, ← List.singleton_append,
    sampled_append, hfirst, List.nil_append, sampled_slots]

theorem rises_frameListing (c : BlockConfig) (a : Addr) (d : Byte) (p : PerLine Bool) :
    edges .clk true p (frameListing c a d) = 12 ∧ edges .latch true p (frameListing c a d) = 1 := by
  have hfirst (l : Line) : edges l true p [.drive .latch false] = 0 := by
    cases l <;> simp [edges, levelsStep, PerLine.put, PerLine.get]
  have hslots := rises_slots (levelsAfter p [.drive .latch false]) ((List.range 12).map (frameWord a d).getLsbD)
  have hlatch := rises_latchEvents c
    (latch_slots (levelsAfter p [.drive .latch false]) ((List.range 12).map (frameWord a d).getLsbD))
  rw [frameListing_eq_slots, ← List.singleton_append]
  simp only [edges_append, hfirst, hslots, levelsAfter_append, hlatch]
  simp

/-- Settles O26: the rises are counted slot by slot, and a line that ends at the level it starts from falls as often as
it rises. -/
theorem frameEdgesAreCounted : Obligations.FrameEdgesAreCounted := by
  intro c a d x
  obtain ⟨hclk, hlatch⟩ := rises_frameListing c a d ⟨false, x, false⟩
  have hlevels := levelsAfter_frameListing c a d ⟨false, x, false⟩
  have hclkFalls := falls_eq_rises (l := .clk) (by rw [hlevels]; rfl)
  have hlatchFalls := falls_eq_rises (l := .latch) (by rw [hlevels]; rfl)
  exact ⟨hclk, hclkFalls.trans hclk, hlatch, hlatchFalls.trans hlatch, rfl, hlevels⟩

theorem phaseEvent_eq_data {c : BlockConfig} {f : FrameWord} {k : Fin 42} {b : Bool}
    (h : phaseEvent c f k = .drive .data b) : ∃ j < 12, k.val = 2 + 3 * j := by
  have hk := k.isLt
  unfold phaseEvent at h
  split_ifs at h with hfirst hslots
  · cases h
  · split at h
    · simp at h
    · exact ⟨(k.val - 1) / 3, by omega, by omega⟩
    · simp at h
  · split at h <;> simp at h

/-- Settles O25: a slot's bit is sampled at its clock's rise, and a DATA drive stands between the fall and the rise. -/
theorem dataIsValidAtEveryRisingClock : Obligations.DataIsValidAtEveryRisingClock := by
  refine fun c a d p => ⟨fun _ => ?_, fun n b hn => ?_⟩
  · rw [sampled_frameListing, map_frameWord_getLsbD]
  · have hframe := isFrame_frameListing c a d
    have hlt : n < 42 := by
      rw [← hframe.count]
      exact (List.getElem?_eq_some_iff.1 hn).1
    rw [frameListing_getElem? c a d ⟨n, hlt⟩, Option.some.injEq] at hn
    obtain ⟨j, hj, rfl⟩ := phaseEvent_eq_data hn
    have hlow : (frameListing c a d)[1 + 3 * j]? = some (.drive .clk false) := hframe.clockLow j hj
    constructor
    · rw [show 2 + 3 * j = 1 + 3 * j + 1 by omega, List.take_add_one, hlow, levelsAfter_append]
      rfl
    · rw [show 2 + 3 * j + 1 = 3 + 3 * j by omega]
      exact hframe.clockHigh j hj

end Sys2Proof.Machine
end

section
/-! SUPPORT. The least duration of frames (41_bus_transport.md R123, 70_reset_and_hazards.md R245). -/

namespace Sys2Proof.Machine

theorem minDuration_frameListing (c : BlockConfig) (a : Addr) (d : Byte) :
    minDuration c (frameListing c a d) = tSettle c + tLatchHigh c + 37 * c.edgeMin := by
  rw [frameListing_explicit]
  simp only [minDuration, waitTime, gap]
  omega

/-- A list cut at an event that takes no time itself. -/
theorem minDuration_cut (c : BlockConfig) (es es' : List Event) {e : Event} (he : waitTime e = 0) :
    minDuration c (es ++ e :: es') = minDuration c (es ++ [e]) + minDuration c (e :: es') := by
  induction es with
  | nil => simp [minDuration, he]
  | cons e₁ es ih =>
    cases es with
    | nil => simp [minDuration, he]
    | cons e₂ es =>
      simp only [List.cons_append, minDuration] at ih ⊢
      omega

theorem gap_of_not_wait (c : BlockConfig) {e e' : Event} (he : ∀ n, e ≠ .wait n) (he' : ∀ n, e' ≠ .wait n) :
    gap c e e' = c.edgeMin := by
  cases e' with
  | wait n => exact absurd rfl (he' n)
  | drive | readData => cases e with
    | wait n => exact absurd rfl (he n)
    | drive | readData => rfl

/-- From an event that is no wait to a frame there is at least one gap, whatever READs stand between them. -/
theorem minDuration_reads_frame (c : BlockConfig) (a : Addr) (d : Byte) (reads : List (CellIndex × Byte)) {e : Event}
    (he : ∀ n, e ≠ .wait n) :
    c.edgeMin + minDuration c (frameListing c a d) ≤
      minDuration c (e :: (reads.map (fun r => .readData r.1 r.2) ++ frameListing c a d)) := by
  induction reads generalizing e with
  | nil =>
    have hfirst := gap_of_not_wait c he (e' := .drive .latch false) nofun
    rw [frameListing_eq_slots]
    simp only [List.map_nil, List.nil_append, List.cons_append, minDuration, hfirst]
    omega
  | cons r reads ih =>
    have hrest := ih (e := .readData r.1 r.2) nofun
    simp only [List.map_cons, List.cons_append, minDuration]
    omega

/-- Settles O27: a frame ends with a drive, from which at least one gap passes to the next frame. -/
theorem frameLastsAtLeastItsWaits : Obligations.FrameLastsAtLeastItsWaits := by
  refine fun c => ⟨one_le_tSettle c, four_le_tLatchHigh c, fun a d => ⟨minDuration_frameListing c a d, ?_, ?_, ?_⟩,
    fun a a' d d' reads => ?_⟩
  · have := one_le_tSettle c
    have := four_le_tLatchHigh c
    rw [minDuration_frameListing]
    omega
  · rw [frameListing_explicit]
    exact Nat.le_add_left _ _
  · rw [frameListing_explicit]
    exact Nat.le_add_left _ _
  · obtain ⟨es, hes⟩ : ∃ es, frameListing c a d = es ++ [.drive .clk false] := ⟨(frameListing c a d).dropLast, rfl⟩
    have hfirst := minDuration_frameListing c a d
    have hsecond := minDuration_frameListing c a' d'
    have hbetween := minDuration_reads_frame c a' d' reads (e := .drive .clk false) nofun
    rw [hes] at hfirst ⊢
    rw [List.append_assoc, List.append_assoc, List.singleton_append, minDuration_cut c es _ rfl]
    omega

end Sys2Proof.Machine
end

section
/-! SUPPORT. Host sequences as compositions (42_host_sequences.md R150): what a sequence of commands does from a
block at rest without a fault, command sequence after command sequence. -/

namespace Sys2Proof.Machine

/-- From s, a block at rest without a fault, the commands run to t, which is such a block again; they add the pairs of
log to the write log, and what they append to the trace lasts at least 5 time units a frame. -/
structure Sends (is : List Instr) (s t : State) (log : List (Addr × Byte)) : Prop where
  runs : ∀ js, runCommands (is ++ js) s = runCommands js t
  atRest : t.AtRest
  noFault : t.fault = none
  config : t.config = s.config
  logged : writes t.trace = writes s.trace ++ log
  lasts : ∃ es, t.trace = s.trace ++ es ∧ 5 * log.length ≤ minDuration s.config es

namespace Sends

variable {is js : List Instr} {s t u : State} {log log' : List (Addr × Byte)}

theorem run (h : Sends is s t log) : runCommands is s = .next t := by
  simpa using h.runs []

theorem nil (hrest : s.AtRest) (hfault : s.fault = none) : Sends [] s s [] where
  runs _ := rfl
  atRest := hrest
  noFault := hfault
  config := rfl
  logged := (List.append_nil _).symm
  lasts := ⟨[], (List.append_nil _).symm, Nat.zero_le _⟩

theorem append (h : Sends is s t log) (h' : Sends js t u log') : Sends (is ++ js) s u (log ++ log') where
  runs ks := by rw [List.append_assoc, h.runs, h'.runs]
  atRest := h'.atRest
  noFault := h'.noFault
  config := h'.config.trans h.config
  logged := by rw [h'.logged, h.logged, List.append_assoc]
  lasts := by
    obtain ⟨es, htrace, hlasts⟩ := h.lasts
    obtain ⟨es', htrace', hlasts'⟩ := h'.lasts
    refine ⟨es ++ es', by rw [htrace', htrace, List.append_assoc], ?_⟩
    have hboth := minDuration_append_le s.config es es'
    rw [h.config] at hlasts'
    rw [List.length_append]
    omega

end Sends

section
variable {s : State} (hrest : s.AtRest) (hfault : s.fault = none)
include hrest hfault

theorem sends_rstimg : Sends [.rstimg] s s.loadDefaults [] where
  runs := runCommands_cons_of_exec ⟨hfault, hrest.idle⟩ (execRstimg_eq s)
  atRest := exec_keeps_atRest hrest (execRstimg_eq s)
  noFault := hfault
  config := rfl
  logged := (List.append_nil _).symm
  lasts := ⟨[], (List.append_nil _).symm, Nat.zero_le _⟩

/-- Any commands that come to a frame after changing at most the image. -/
theorem sends_of_runs {is : List Instr} {img : Vector Byte 9} {a : Addr} {d : Byte}
    (h : ∀ js, runCommands (is ++ js) s = runCommands js (frame a d { s with img := img })) :
    Sends is s (frame a d { s with img := img }) [(a, d)] where
  runs := h
  atRest := (hrest.of_same_lines (t := { s with img := img }) rfl rfl rfl rfl).frame a d
  noFault := by rw [frame_eq]; exact hfault
  config := frame_config a d _
  logged := by rw [frame_trace, writes_append_frameListing hrest.wholeFrames]
  lasts := by
    obtain ⟨-, -, hframe, -⟩ := frameLastsAtLeastItsWaits s.config
    obtain ⟨-, hfive, -⟩ := hframe a d
    exact ⟨_, frame_trace a d _, hfive⟩

theorem sends_write (a : Addr) (d : Byte) : Sends [.write a d] s (frame a d s) [(a, d)] :=
  sends_of_runs hrest hfault (img := s.img) (runCommands_cons_of_exec ⟨hfault, hrest.idle⟩ (execWrite_eq a d s))

theorem sends_commit {r : Addr} {i : CellIndex} (hu : usedCell r = some i) :
    Sends [.commit r] s (frame r (s.readCell i) s) [(r, s.readCell i)] :=
  sends_of_runs hrest hfault (img := s.img)
    (runCommands_cons_of_exec ⟨hfault, hrest.idle⟩ (execCommit_of_usedCell hu s))

theorem sends_seqSet {r : Addr} {i : CellIndex} (hu : usedCell r = some i) {m v : Byte} (hv : v &&& ~~~m = 0) :
    Sends (seqSet r m v) s (s.updateAndSend r i (masked (s.readCell i) m v)) [(r, masked (s.readCell i) m v)] := by
  have hready : s.Ready := ⟨hfault, hrest.idle⟩
  refine sends_of_runs hrest hfault (img := s.img.set i _) fun js => ?_
  rw [seqSet, List.cons_append, runCommands_cons_of_exec hready (execApply_confined hu hv s)]
  refine runCommands_cons_of_exec (hready.writeCell _ _) ?_ js
  rw [execCommit_of_usedCell hu, readCell_writeCell_same]
  rfl

end

end Sys2Proof.Machine
end

section
/-! SUPPORT. Setters run twice and with an option they do not know (42_host_sequences.md R154, R178). -/

namespace Sys2Proof.Machine

/-- A row's update made twice is the row's update made once. -/
theorem SetterRow.updated_updated {p : FacadeParams} (hfields : p.fields.wellFormed = true) {row : SetterRow}
    (hrow : row ∈ setterTable p) (old : Byte) : row.updated (row.updated old) = row.updated old := by
  unfold SetterRow.updated
  cases hu : row.update with
  | none => rfl
  | some mv =>
    have hv := confined_of_wellFormed hfields (update_mem_values hrow hu)
    exact masked_masked_same hv hv old

theorem sends_setter {p : FacadeParams} (hfields : p.fields.wellFormed = true) {row : SetterRow}
    (hrow : row ∈ setterTable p) {i : CellIndex} (hu : usedCell row.cell = some i) {s : State} (hrest : s.AtRest)
    (hfault : s.fault = none) :
    Sends row.commands s (s.updateAndSend row.cell i (row.updated (s.readCell i)))
      [(row.cell, row.updated (s.readCell i))] := by
  rw [commands_eq_listed hrow, SetterRow.listed, SetterRow.updated]
  cases hupdate : row.update with
  | none =>
    rw [State.updateAndSend, State.writeCell_readCell]
    exact sends_commit hrest hfault hu
  | some mv => exact sends_seqSet hrest hfault hu (confined_of_wellFormed hfields (update_mem_values hrow hupdate))

theorem updateAndSend_img_twice (s : State) (r : Addr) (i : CellIndex) (v : Byte) :
    ((s.updateAndSend r i v).updateAndSend r i v).img = (s.updateAndSend r i v).img := by
  simp [State.updateAndSend]

/-- Settles O46: the second run makes the same update of the updated cell, so it sends the same byte. -/
theorem settersRepeatOnTheBusOnly : Obligations.SettersRepeatOnTheBusOnly := by
  intro p s hfields hrest hfault q hq
  obtain ⟨row, hrow, rfl⟩ := List.mem_map.1 hq
  obtain ⟨i, hr, h5, h7⟩ := setterRow_names_used_cell hfields hrow
  have hu := usedCell_eq_some hr h5 h7
  have honce := sends_setter hfields hrow hu hrest hfault
  have hagain := sends_setter hfields hrow hu honce.atRest honce.noFault
  rw [readCell_updateAndSend_same, SetterRow.updated_updated hfields hrow] at hagain
  have htwice := honce.append hagain
  exact ⟨_, _, _, honce.run, htwice.run, updateAndSend_img_twice s _ i _, honce.logged, htwice.logged⟩

/-- Settles O45: the setters with an unknown option are rows without an update, so the cell keeps its byte and is
sent. -/
theorem unrecognisedOptionStillSends : Obligations.UnrecognisedOptionStillSends := by
  intro p s hfields hrest hfault q r hqr
  have hrow : ⟨q, r, none⟩ ∈ setterTable p := by
    simp only [List.mem_cons, Prod.mk.injEq, List.not_mem_nil, or_false] at hqr
    rcases hqr with ⟨rfl, rfl⟩ | ⟨rfl, rfl⟩ | ⟨rfl, rfl⟩ | ⟨rfl, rfl⟩ | ⟨rfl, rfl⟩ | ⟨rfl, rfl⟩ <;> simp [setterTable]
  obtain ⟨i, hr, h5, h7⟩ := setterRow_names_used_cell hfields hrow
  have hsends := sends_setter hfields hrow (usedCell_eq_some hr h5 h7) hrest hfault
  have himg : (s.updateAndSend r i (s.readCell i)).img = s.img := by
    rw [State.updateAndSend, State.writeCell_readCell, frame_img]
  exact ⟨commands_eq_listed hrow, _, i, hr, hsends.run, himg, hsends.noFault, hsends.logged⟩

end Sys2Proof.Machine
end

section
/-! SUPPORT. Lists of field updates (42_host_sequences.md R153): each is a SET, and the image after them is read cell by
cell. -/

namespace Sys2Proof.Machine

/-- The operands of one SET. -/
structure FieldUpdate where
  cell : Addr
  mask : Byte
  value : Byte

namespace FieldUpdate

/-- The commands of the update (R153). -/
def commands (u : FieldUpdate) : List Instr := seqSet u.cell u.mask u.value

/-- The cell that the index names; of an index that names none the value is of no use. -/
def index (u : FieldUpdate) : CellIndex := (usedCell u.cell).getD 0

/-- What the update makes of a byte (R153). -/
def apply (old : Byte) (u : FieldUpdate) : Byte := masked old u.mask u.value

/-- The update names a used cell, and its value is confined to its mask (70_reset_and_hazards.md R239). -/
def Valid (u : FieldUpdate) : Prop := usedCell u.cell ≠ none ∧ u.value &&& ~~~u.mask = 0

theorem Valid.usedCell_eq {u : FieldUpdate} (h : u.Valid) : usedCell u.cell = some u.index := by
  obtain ⟨i, hi⟩ := Option.ne_none_iff_exists'.1 h.1
  rw [index, hi, Option.getD_some]

/-- The masks of all updates together. -/
def masks (us : List FieldUpdate) : Byte := us.foldr (fun u m => u.mask ||| m) 0

/-- The values of all updates together. -/
def values (us : List FieldUpdate) : Byte := us.foldr (fun u v => u.value ||| v) 0

end FieldUpdate

/-- The state after one update. -/
def State.update (s : State) (u : FieldUpdate) : State :=
  s.updateAndSend u.cell u.index (u.apply (s.readCell u.index))

/-- The pairs that updates add to the write log, one by one. -/
def updateLog : State → List FieldUpdate → List (Addr × Byte)
  | _, [] => []
  | s, u :: us => (u.cell, u.apply (s.readCell u.index)) :: updateLog (s.update u) us

theorem updateLog_addresses (us : List FieldUpdate) (s : State) :
    (updateLog s us).map Prod.fst = us.map FieldUpdate.cell := by
  induction us generalizing s with
  | nil => rfl
  | cons u us ih => rw [updateLog, List.map_cons, List.map_cons, ih]

theorem sends_update {u : FieldUpdate} (hu : u.Valid) {s : State} (hrest : s.AtRest) (hfault : s.fault = none) :
    Sends u.commands s (s.update u) [(u.cell, u.apply (s.readCell u.index))] :=
  sends_seqSet hrest hfault hu.usedCell_eq hu.2

theorem sends_updates {us : List FieldUpdate} (hus : ∀ u ∈ us, u.Valid) {s : State} (hrest : s.AtRest)
    (hfault : s.fault = none) :
    Sends (us.flatMap FieldUpdate.commands) s (us.foldl State.update s) (updateLog s us) := by
  induction us generalizing s with
  | nil => exact .nil hrest hfault
  | cons u us ih =>
    obtain ⟨hu, hus⟩ := List.forall_mem_cons.1 hus
    have hfirst := sends_update hu hrest hfault
    rw [List.flatMap_cons, List.foldl_cons, updateLog, ← List.singleton_append]
    exact hfirst.append (ih hus hfirst.atRest hfirst.noFault)

theorem readCell_update (s : State) (u : FieldUpdate) (i : CellIndex) :
    (s.update u).readCell i = if u.index = i then u.apply (s.readCell i) else s.readCell i := by
  split
  next h => rw [State.update, h, readCell_updateAndSend_same]
  next h => rw [State.update, readCell_updateAndSend_other _ _ _ _ (Ne.symm h)]

/-- A cell takes the updates that name it, in order. -/
theorem readCell_updates (us : List FieldUpdate) (s : State) (i : CellIndex) :
    (us.foldl State.update s).readCell i =
      (us.filter fun u => u.index = i).foldl FieldUpdate.apply (s.readCell i) := by
  induction us generalizing s with
  | nil => rfl
  | cons u us ih =>
    rw [List.foldl_cons, ih, readCell_update, List.filter_cons]
    split <;> simp_all

end Sys2Proof.Machine
end

section
/-! SUPPORT. TUNE and BEGIN as lists of field updates between resets (42_host_sequences.md R171, R173), and their
commands as well-formed ones (R152 (a)). -/

namespace Sys2Proof.Machine

/-- The updates of TUNE (R171). -/
def tuneUpdates (p : FacadeParams) (f : Nat) : List FieldUpdate :=
  [⟨8, 0x03, band f⟩, ⟨6, p.fields.cpMask, p.fields.cpHigh⟩, ⟨3, 0xFF, tuningLow f⟩, ⟨4, 0xFF, tuningHigh f⟩,
   ⟨6, p.fields.cpMask, p.fields.cpLow⟩]

/-- The updates of BEGIN before its tuning (R173). -/
def outputUpdates (p : FacadeParams) : List FieldUpdate :=
  [⟨p.fields.pilotReg, p.fields.pilotMask, p.fields.pilotOn⟩, ⟨2, p.fields.outMask, p.fields.outMed⟩,
   ⟨2, p.fields.uldMask, p.fields.uldOn⟩, ⟨p.fields.subcReg, p.fields.subcMask, p.fields.subcOff⟩]

/-- The updates of BEGIN after its tuning (R173). -/
def inputUpdates (p : FacadeParams) : List FieldUpdate :=
  [⟨0, p.fields.pwrMask, p.fields.pwrOn⟩, ⟨0, p.fields.muteMask, p.fields.muteOff⟩,
   ⟨0, p.fields.peMask, p.fields.pe50⟩, ⟨0, p.fields.inMask, p.fields.inMed⟩]

/-- The updates of BEGIN between its two chip resets (R173). -/
def beginUpdates (p : FacadeParams) (f : Nat) : List FieldUpdate :=
  outputUpdates p ++ tuneUpdates p f ++ inputUpdates p

theorem tuneSteps_eq (p : FacadeParams) (f : Nat) (rst : Bool) :
    tuneSteps p f rst =
      (tuneUpdates p f).flatMap FieldUpdate.commands ++ (if rst then seqChipReset p else []) := rfl

theorem seqTune_eq_some_iff (p : FacadeParams) (f : Nat) (rst : Bool) (is : List Instr) :
    seqTune p f rst = some is ↔ admitted f = true ∧ tuneSteps p f rst = is := by
  simp [seqTune]

theorem seqBegin_eq_some_iff (p : FacadeParams) (f : Nat) (is : List Instr) :
    seqBegin p f = some is ↔
      admitted f = true ∧
        seqFullReset ++ seqChipReset p ++ (beginUpdates p f).flatMap FieldUpdate.commands ++ seqChipReset p = is := by
  have hbegin : seqBegin p f =
      if admitted f then
        some (seqFullReset ++ seqChipReset p ++ (beginUpdates p f).flatMap FieldUpdate.commands ++ seqChipReset p)
      else none := rfl
  simp [hbegin]

theorem band_confined (f : Nat) : band f &&& ~~~(0x03 : Byte) = 0 := by
  rcases band_cases f with ⟨-, h⟩ | ⟨-, -, h⟩ | ⟨-, -, h⟩ | ⟨-, h⟩ <;> rw [h] <;> decide

theorem FieldUpdate.valid_of_used {r : Addr} {m v : Byte} (hr : usedCell r ≠ none) (hv : v &&& ~~~m = 0) :
    FieldUpdate.Valid ⟨r, m, v⟩ := ⟨hr, hv⟩

theorem FieldUpdate.Valid.wellFormed {u : FieldUpdate} (h : u.Valid) : ∀ i ∈ u.commands, i.wellFormed = true := by
  rintro i (_ | ⟨_, _ | ⟨_, ⟨⟩⟩⟩)
  · exact (wellFormed_apply_iff _ _ _).2 h
  · exact (wellFormed_commit_iff _).2 h.1

theorem wellFormed_of_mem_seqChipReset {p : FacadeParams} : ∀ i ∈ seqChipReset p, i.wellFormed = true := by
  simp [seqChipReset, Instr.wellFormed]

section
variable {p : FacadeParams} (hfields : p.fields.wellFormed = true)
include hfields

theorem valid_tuneUpdates (f : Nat) : ∀ u ∈ tuneUpdates p f, u.Valid := by
  have hpump : ∀ v, (p.fields.cpMask, v) ∈ p.fields.values → FieldUpdate.Valid ⟨6, p.fields.cpMask, v⟩ :=
    fun v hv => FieldUpdate.valid_of_used (by decide) (confined_of_wellFormed hfields hv)
  have hbyte : ∀ r v, usedCell r ≠ none → FieldUpdate.Valid ⟨r, 0xFF, v⟩ :=
    fun r v hr => FieldUpdate.valid_of_used hr BitVec.and_zero
  simp only [tuneUpdates, List.forall_mem_cons]
  exact ⟨FieldUpdate.valid_of_used (by decide) (band_confined f), hpump _ (by simp [FieldMap.values]),
    hbyte _ _ (by decide), hbyte _ _ (by decide), hpump _ (by simp [FieldMap.values]), by simp⟩

theorem valid_beginUpdates (f : Nat) : ∀ u ∈ beginUpdates p f, u.Valid := by
  obtain ⟨hpilot, hsubc⟩ := registers_of_wellFormed hfields
  have hused : ∀ r : Addr, r = 1 ∨ r = 2 → usedCell r ≠ none := by decide
  have hvalid : ∀ r m v, usedCell r ≠ none → (m, v) ∈ p.fields.values → FieldUpdate.Valid ⟨r, m, v⟩ :=
    fun r m v hr hv => FieldUpdate.valid_of_used hr (confined_of_wellFormed hfields hv)
  simp only [beginUpdates, outputUpdates, inputUpdates, List.forall_mem_append, List.forall_mem_cons]
  refine ⟨⟨⟨hvalid _ _ _ (hused _ hpilot) ?_, hvalid _ _ _ (by decide) ?_, hvalid _ _ _ (by decide) ?_,
    hvalid _ _ _ (hused _ hsubc) ?_, by simp⟩, valid_tuneUpdates hfields f⟩, hvalid _ _ _ (by decide) ?_,
    hvalid _ _ _ (by decide) ?_, hvalid _ _ _ (by decide) ?_, hvalid _ _ _ (by decide) ?_, by simp⟩ <;>
    simp [FieldMap.values]

theorem wellFormed_of_mem_tuneSteps (f : Nat) (rst : Bool) : ∀ i ∈ tuneSteps p f rst, i.wellFormed = true := by
  rw [tuneSteps_eq, List.forall_mem_append, List.forall_mem_flatMap]
  refine ⟨fun u hu => (valid_tuneUpdates hfields f u hu).wellFormed, ?_⟩
  cases rst
  · simp
  · exact wellFormed_of_mem_seqChipReset

end

/-- Settles O51: every facade command is of a valid update, of the chip reset, RSTIMG or a READ of a cell. -/
theorem facadeCommandsAreWellFormed : Obligations.FacadeCommandsAreWellFormed := by
  refine fun p f rst hfields => ⟨fun q hq => ?_, fun is h => ?_, fun is h => ?_, by decide⟩
  · obtain ⟨row, hrow, rfl⟩ := List.mem_map.1 hq
    obtain ⟨i, hr, h5, h7⟩ := setterRow_names_used_cell hfields hrow
    have hu : usedCell row.cell ≠ none := by simp [usedCell_eq_some hr h5 h7]
    rw [commands_eq_listed hrow, SetterRow.listed]
    cases hupdate : row.update with
    | none => simpa [wellFormed_commit_iff] using hu
    | some mv =>
      have hv := confined_of_wellFormed hfields (update_mem_values hrow hupdate)
      exact (FieldUpdate.valid_of_used hu hv).wellFormed
  · obtain ⟨-, rfl⟩ := (seqTune_eq_some_iff p f rst is).1 h
    exact wellFormed_of_mem_tuneSteps hfields f rst
  · obtain ⟨-, rfl⟩ := (seqBegin_eq_some_iff p f is).1 h
    have hupdates : ∀ i ∈ (beginUpdates p f).flatMap FieldUpdate.commands, i.wellFormed = true :=
      List.forall_mem_flatMap.2 fun u hu => (valid_beginUpdates hfields f u hu).wellFormed
    simp only [List.forall_mem_append]
    exact ⟨⟨⟨by decide, wellFormed_of_mem_seqChipReset⟩, hupdates⟩, wellFormed_of_mem_seqChipReset⟩

end Sys2Proof.Machine
end

section
/-! SUPPORT. What TUNE sends and leaves (42_host_sequences.md R171, R172). -/

namespace Sys2Proof.Machine

/-- The bits outside the mask stay. -/
theorem masked_and_not_mask {m v : Byte} (hv : v &&& ~~~m = 0) (old : Byte) :
    masked old m v &&& ~~~m = old &&& ~~~m := by
  apply BitVec.eq_of_getLsbD_eq
  intro k hk
  rw [BitVec.getLsbD_and, BitVec.getLsbD_and, BitVec.getLsbD_not, masked_getLsbD_of_confined hv]
  cases hm : m.getLsbD k <;> simp

theorem sends_chipReset (p : FacadeParams) {s : State} (hrest : s.AtRest) (hfault : s.fault = none) :
    Sends (seqChipReset p) s (frame p.chipResetAddr p.chipResetData s) [(p.chipResetAddr, p.chipResetData)] :=
  sends_write hrest hfault _ _

section
variable {p : FacadeParams} (hfields : p.fields.wellFormed = true) (f : Nat) (rst : Bool) {s : State}
include hfields

theorem sends_tune (hrest : s.AtRest) (hfault : s.fault = none) :
    ∃ t, Sends (tuneSteps p f rst) s t
        (updateLog s (tuneUpdates p f) ++ if rst then [(p.chipResetAddr, p.chipResetData)] else []) ∧
      ∀ i, t.readCell i = ((tuneUpdates p f).foldl State.update s).readCell i := by
  have hupdates := sends_updates (valid_tuneUpdates hfields f) hrest hfault
  rw [tuneSteps_eq]
  cases rst with
  | false => exact ⟨_, hupdates.append (.nil hupdates.atRest hupdates.noFault), fun _ => rfl⟩
  | true =>
    exact ⟨_, hupdates.append (sends_chipReset p hupdates.atRest hupdates.noFault), fun i => readCell_frame _ _ _ i⟩

theorem masked_pump (old : Byte) :
    masked (masked old p.fields.cpMask p.fields.cpHigh) p.fields.cpMask p.fields.cpLow =
      masked old p.fields.cpMask p.fields.cpLow :=
  masked_masked_same (confined_of_wellFormed hfields (by simp [FieldMap.values]))
    (confined_of_wellFormed hfields (by simp [FieldMap.values])) old

theorem updateLog_tuneUpdates :
    updateLog s (tuneUpdates p f) =
      [(8, masked (s.readCell 8) 0x03 (band f)), (6, masked (s.readCell 6) p.fields.cpMask p.fields.cpHigh),
       (3, tuningLow f), (4, tuningHigh f), (6, masked (s.readCell 6) p.fields.cpMask p.fields.cpLow)] := by
  have hbyte : ∀ old v, masked old 255#8 v = v := masked_allOnes
  simp [updateLog, tuneUpdates, readCell_update, FieldUpdate.index, FieldUpdate.apply, usedCell, hbyte,
    masked_pump hfields]

/-! The cells afterwards. -/

theorem readCell_tuneUpdates :
    let t := (tuneUpdates p f).foldl State.update s
    t.readCell 3 = tuningLow f ∧ t.readCell 4 = tuningHigh f ∧
    t.readCell 8 = masked (s.readCell 8) 0x03 (band f) ∧
    t.readCell 6 = masked (s.readCell 6) p.fields.cpMask p.fields.cpLow ∧
    ∀ i : CellIndex, i ≠ 3 → i ≠ 4 → i ≠ 6 → i ≠ 8 → t.readCell i = s.readCell i := by
  refine ⟨?_, ?_, ?_, ?_, fun i h3 h4 h6 h8 => ?_⟩
  · exact (readCell_updates _ s 3).trans (masked_allOnes _ _)
  · exact (readCell_updates _ s 4).trans (masked_allOnes _ _)
  · exact readCell_updates _ s 8
  · exact (readCell_updates _ s 6).trans (masked_pump hfields _)
  · simp [tuneUpdates, readCell_update, FieldUpdate.index, usedCell, h3.symm, h4.symm, h6.symm, h8.symm]

end

/-- Settles O47: five updates, each sent, and the chip reset if it is asked for. -/
theorem tuneSendsAndLeaves : Obligations.TuneSendsAndLeaves := by
  intro p f rst s hfields hadmitted hrest hfault
  obtain ⟨t, hsends, hcells⟩ := sends_tune hfields f rst hrest hfault
  obtain ⟨h3, h4, h8, h6, hothers⟩ := readCell_tuneUpdates hfields f (s := s)
  have hlogged := hsends.logged
  rw [updateLog_tuneUpdates hfields f, ← List.append_assoc] at hlogged
  refine ⟨_, t, (seqTune_eq_some_iff p f rst _).2 ⟨hadmitted, rfl⟩, hsends.run, hlogged, (hcells 3).trans h3,
    (hcells 4).trans h4, ?_, ?_, (hcells 6).trans h6,
    fun i hi3 hi4 hi6 hi8 => (hcells i).trans (hothers i hi3 hi4 hi6 hi8), hsends.noFault⟩
  · rw [hcells, h8]
    exact masked_and_mask (band_confined f) _
  · rw [hcells, h8]
    exact masked_and_not_mask (band_confined f) _

/-- Settles O13: TUNE leaves band 2 in cell 8, where the default image has band 3. -/
theorem defaultImageTunesButSelectsAnotherBand : Obligations.DefaultImageTunesButSelectsAnotherBand := by
  refine ⟨by decide, by decide, by decide, by decide, fun c p rst t hrun hfields himg => ?_⟩
  obtain ⟨t', hsends, hcells⟩ := sends_tune hfields 97300000 rst (atRest_resetWith c) rfl
  obtain ⟨-, -, h8, -⟩ := readCell_tuneUpdates hfields 97300000 (s := State.resetWith c)
  obtain rfl := Host.Outcome.next.inj (hsends.run.symm.trans hrun)
  have hkept : t'.readCell 8 = 0x1B := congrArg (fun img => img[8]) himg
  rw [hcells, h8, readCell_resetWith] at hkept
  exact absurd hkept (by decide)

end Sys2Proof.Machine
end

section
/-! SUPPORT. What BEGIN sends and leaves (42_host_sequences.md R173 to R175). -/

namespace Sys2Proof.Machine

section
variable {p : FacadeParams} (hfields : p.fields.wellFormed = true) {f : Nat} (hadmitted : admitted f = true)
  {s : State} (hrest : s.AtRest) (hfault : s.fault = none)
include hfields hadmitted hrest hfault

/-- BEGIN is RSTIMG, a chip reset, the updates, and a chip reset. -/
theorem sends_begin :
    ∃ is t s', seqBegin p f = some is ∧
      Sends is s t ([(p.chipResetAddr, p.chipResetData)] ++ updateLog s' (beginUpdates p f) ++
        [(p.chipResetAddr, p.chipResetData)]) ∧
      ∀ i, t.readCell i = ((beginUpdates p f).filter fun u => u.index = i).foldl FieldUpdate.apply
        (s.loadDefaults.readCell i) := by
  have hdefaults := sends_rstimg hrest hfault
  have hfirst := hdefaults.append (sends_chipReset p hdefaults.atRest hdefaults.noFault)
  have hupdates := hfirst.append (sends_updates (valid_beginUpdates hfields f) hfirst.atRest hfirst.noFault)
  have hall := hupdates.append (sends_chipReset p hupdates.atRest hupdates.noFault)
  refine ⟨_, _, _, (seqBegin_eq_some_iff p f _).2 ⟨hadmitted, rfl⟩, hall, fun i => ?_⟩
  rw [readCell_frame, readCell_updates, readCell_frame]

end

/-- Settles O48: the addresses are those of the updates, between the two chip resets. -/
theorem beginSendsFifteenFrames : Obligations.BeginSendsFifteenFrames := by
  intro p f s hfields hadmitted hrest hfault
  obtain ⟨is, t, s', his, hsends, -⟩ := sends_begin hfields hadmitted hrest hfault
  obtain ⟨es, htrace, hlasts⟩ := hsends.lasts
  have haddresses := updateLog_addresses (beginUpdates p f) s'
  have hlength : (updateLog s' (beginUpdates p f)).length = 13 := by
    rw [← List.length_map Prod.fst, haddresses]
    rfl
  refine ⟨is, t, _, es, his, hsends.run, htrace, hsends.logged, ?_, ?_, rfl, List.getLast?_concat, ?_⟩
  · simp [hlength]
  · simp only [List.map_append, haddresses]
    rfl
  · simpa [hlength] using hlasts

end Sys2Proof.Machine
end
section
/-! SUPPORT. Updates of disjoint fields of one cell come to one update of all of them (42_host_sequences.md R152 (b),
R175). -/

namespace Sys2Proof.Machine

theorem masked_masked_of_disjoint {m v : Byte} (hv : v &&& ~~~m = 0) {m' : Byte} (hdisjoint : m &&& m' = 0)
    (old v' : Byte) : masked (masked old m v) m' v' = masked old (m ||| m') (v ||| v') := by
  apply BitVec.eq_of_getLsbD_eq
  intro k _
  have hbits : (m.getLsbD k && m'.getLsbD k) = false := by
    rw [← BitVec.getLsbD_and, hdisjoint]
    exact BitVec.getLsbD_zero
  simp only [masked_getLsbD, BitVec.getLsbD_or]
  cases hm : m.getLsbD k with
  | false => simp [getLsbD_eq_false_of_confined hv hm]
  | true => simp_all

namespace FieldUpdate

theorem and_masks_eq_zero {m : Byte} {us : List FieldUpdate} (h : ∀ u ∈ us, m &&& u.mask = 0) :
    m &&& masks us = 0 := by
  induction us with
  | nil => exact BitVec.and_zero
  | cons u us ih =>
    obtain ⟨hu, hus⟩ := List.forall_mem_cons.1 h
    rw [masks, List.foldr_cons, ← masks, BitVec.and_or_distrib_left, hu, ih hus]
    exact BitVec.or_zero

/-- No field of a cell undoes another. -/
theorem foldl_apply_of_disjoint {us : List FieldUpdate} (hus : ∀ u ∈ us, u.Valid)
    (hdisjoint : us.Pairwise fun u u' => u.mask &&& u'.mask = 0) (old : Byte) :
    us.foldl apply old = masked old (masks us) (values us) := by
  induction us generalizing old with
  | nil => exact (masked_zero old).symm
  | cons u us ih =>
    obtain ⟨hu, hus⟩ := List.forall_mem_cons.1 hus
    obtain ⟨hfirst, hrest⟩ := List.pairwise_cons.1 hdisjoint
    rw [List.foldl_cons, ih hus hrest, apply, masked_masked_of_disjoint hu.2 (and_masks_eq_zero hfirst)]
    rfl

end FieldUpdate

end Sys2Proof.Machine
end

section
/-! SUPPORT. The image that BEGIN leaves (42_host_sequences.md R175), cells 0 to 2 by their fields and the others by the
tuning. -/

namespace Sys2Proof.Machine

section
variable {p : FacadeParams} (hfields : p.fields.wellFormed = true)
include hfields

/-- The fields of BEGIN lie in cells 0 to 2. -/
theorem fieldUpdates_index_le : ∀ u ∈ outputUpdates p ++ inputUpdates p, u.index ≤ 2 := by
  obtain ⟨hpilot, hsubc⟩ := registers_of_wellFormed hfields
  rcases hpilot with hpilot | hpilot <;> rcases hsubc with hsubc | hsubc <;>
    simp [outputUpdates, inputUpdates, FieldUpdate.index, usedCell, hpilot, hsubc]

/-- The updates of one cell are either fields of BEGIN or the tuning's. -/
theorem filter_beginUpdates (f : Nat) (i : CellIndex) :
    (beginUpdates p f).filter (fun u => u.index = i) =
      if i ≤ 2 then (outputUpdates p ++ inputUpdates p).filter fun u => u.index = i
      else (tuneUpdates p f).filter fun u => u.index = i := by
  have hfieldsIndex := fieldUpdates_index_le hfields
  have htuneIndex : ∀ u ∈ tuneUpdates p f, ¬u.index ≤ 2 := by
    simp [tuneUpdates, FieldUpdate.index, usedCell]
  rw [List.forall_mem_append] at hfieldsIndex
  have hempty : ∀ us : List FieldUpdate, (∀ u ∈ us, u.index ≠ i) → us.filter (fun u => u.index = i) = [] := by
    simp
  rw [beginUpdates, List.filter_append, List.filter_append, List.filter_append]
  split
  next hi =>
    rw [hempty (tuneUpdates p f) fun u hu h => htuneIndex u hu (h ▸ hi), List.append_nil]
  next hi =>
    rw [hempty (outputUpdates p) fun u hu h => hi (h ▸ hfieldsIndex.1 u hu),
      hempty (inputUpdates p) fun u hu h => hi (h ▸ hfieldsIndex.2 u hu), List.nil_append, List.append_nil]

theorem disjoint_placed : p.fields.placed.Pairwise fun x y => x.1 = y.1 → x.2 &&& y.2 = 0 := by
  obtain ⟨-, hdisjoint, -⟩ := (fieldMap_wellFormed_iff p.fields).1 hfields
  exact of_decide_eq_true hdisjoint

/-- R152 (b) for the fields of BEGIN. -/
theorem disjoint_fieldUpdates :
    (outputUpdates p ++ inputUpdates p).Pairwise fun u u' => u.cell = u'.cell → u.mask &&& u'.mask = 0 := by
  have houtputs : ((outputUpdates p).map fun u => (u.cell, u.mask)).Perm ((p.fields.placed.drop 4).take 4) :=
    .append_right [_] (List.perm_append_comm (l₁ := [_]) (l₂ := [_, _]))
  have hinputs : ((inputUpdates p).map fun u => (u.cell, u.mask)).Perm (p.fields.placed.take 4) :=
    .cons _ (.cons _ (.swap _ _ []))
  have hperm : ((outputUpdates p ++ inputUpdates p).map fun u => (u.cell, u.mask)).Perm (p.fields.placed.take 8) := by
    rw [List.map_append]
    exact List.perm_append_comm.trans (hinputs.append houtputs)
  have hsymm : ∀ {x y : Addr × Byte}, (x.1 = y.1 → x.2 &&& y.2 = 0) → y.1 = x.1 → y.2 &&& x.2 = 0 :=
    fun h e => (BitVec.and_comm _ _).trans (h e.symm)
  exact List.pairwise_map.1 ((hperm.pairwise_iff hsymm).2 ((disjoint_placed hfields).sublist (List.take_sublist 8 _)))

/-- A cell of BEGIN's fields takes them all at once. -/
theorem foldl_fieldUpdates (i : CellIndex) (old : Byte) :
    ((outputUpdates p ++ inputUpdates p).filter fun u => u.index = i).foldl FieldUpdate.apply old =
      masked old (FieldUpdate.masks ((outputUpdates p ++ inputUpdates p).filter fun u => u.index = i))
        (FieldUpdate.values ((outputUpdates p ++ inputUpdates p).filter fun u => u.index = i)) := by
  have hvalid : ∀ u ∈ outputUpdates p ++ inputUpdates p, u.Valid := fun u hu =>
    valid_beginUpdates hfields 0 u (by simp only [beginUpdates, List.mem_append] at hu ⊢; tauto)
  refine FieldUpdate.foldl_apply_of_disjoint (fun u hu => hvalid u (List.mem_of_mem_filter hu)) ?_ old
  refine ((disjoint_fieldUpdates hfields).filter _).imp_of_mem fun {u u'} hu hu' h => h ?_
  obtain ⟨hmem, hindex⟩ := List.mem_filter.1 hu
  obtain ⟨hmem', hindex'⟩ := List.mem_filter.1 hu'
  have hsame : u.index = u'.index := (of_decide_eq_true hindex).trans (of_decide_eq_true hindex').symm
  exact usedCell_injective (hvalid u hmem).usedCell_eq (hsame ▸ (hvalid u' hmem').usedCell_eq)

/-! The masks and the values of the fields, cell by cell. -/

theorem fields_of_cell_zero :
    (outputUpdates p ++ inputUpdates p).filter (fun u => u.index = 0) = inputUpdates p := by
  obtain ⟨hpilot, hsubc⟩ := registers_of_wellFormed hfields
  rcases hpilot with hpilot | hpilot <;> rcases hsubc with hsubc | hsubc <;>
    simp [outputUpdates, inputUpdates, FieldUpdate.index, usedCell, hpilot, hsubc]

/-- In cells 1 and 2 they are U_R and V_R of R175. -/
theorem fields_of_cell_one_or_two {r : Addr} {i : CellIndex} (hr : r = 1 ∧ i = 1 ∨ r = 2 ∧ i = 2) :
    FieldUpdate.masks ((outputUpdates p ++ inputUpdates p).filter fun u => u.index = i) = beginMask p.fields r ∧
    FieldUpdate.values ((outputUpdates p ++ inputUpdates p).filter fun u => u.index = i) = beginValue p.fields r := by
  obtain ⟨hpilot, hsubc⟩ := registers_of_wellFormed hfields
  rcases hr with ⟨rfl, rfl⟩ | ⟨rfl, rfl⟩ <;> rcases hpilot with hpilot | hpilot <;>
    rcases hsubc with hsubc | hsubc <;> constructor <;>
    simp [outputUpdates, inputUpdates, FieldUpdate.index, FieldUpdate.masks, FieldUpdate.values, usedCell, beginMask,
      beginValue, hpilot, hsubc] <;>
    ac_rfl

end

theorem masked_band (f : Nat) : masked 0x1B 0x03 (band f) = 0x18 ||| band f := rfl

/-- Settles O49: the used cells start from their defaults, 0 to 2 take their fields at once, and the tuning gives the
others. -/
theorem beginLeavesTheImage : Obligations.BeginLeavesTheImage := by
  intro p f s hfields hadmitted hrest hfault
  obtain ⟨is, t, _, his, hsends, hcells⟩ := sends_begin hfields hadmitted hrest hfault
  have hdefault := readCell_loadDefaults s
  have htuned : ∀ i : CellIndex, ¬i ≤ 2 →
      t.readCell i = ((tuneUpdates p f).foldl State.update s.loadDefaults).readCell i := fun i hi => by
    rw [hcells, filter_beginUpdates hfields, if_neg hi, readCell_updates]
  have hfield : ∀ i : CellIndex, i ≤ 2 → t.readCell i =
      masked (s.loadDefaults.readCell i)
        (FieldUpdate.masks ((outputUpdates p ++ inputUpdates p).filter fun u => u.index = i))
        (FieldUpdate.values ((outputUpdates p ++ inputUpdates p).filter fun u => u.index = i)) := fun i hi => by
    rw [hcells, filter_beginUpdates hfields, if_pos hi, foldl_fieldUpdates hfields]
  obtain ⟨h3, h4, h8, h6, hothers⟩ := readCell_tuneUpdates hfields f (s := s.loadDefaults)
  rw [hdefault] at h6 h8
  have hreserved : ∀ i : CellIndex, i = 5 ∨ i = 7 → t.readCell i = s.readCell i := by
    rintro i (rfl | rfl) <;>
      exact (htuned _ (by decide)).trans
        ((hothers _ (by decide) (by decide) (by decide) (by decide)).trans (hdefault _))
  have ht3 := (htuned 3 (by decide)).trans h3
  have ht4 := (htuned 4 (by decide)).trans h4
  have ht8 := (htuned 8 (by decide)).trans (h8.trans (masked_band f))
  refine ⟨is, t, his, hsends.run, ht3, ht4, ht8, (htuned 6 (by decide)).trans h6, ?_, ?_, ?_,
    hreserved 5 (.inl rfl), hreserved 7 (.inr rfl), fun hf => ?_⟩
  · rw [hfield 0 (by decide), fields_of_cell_zero hfields, hdefault]
    simp [inputUpdates, FieldUpdate.masks, FieldUpdate.values, masked, defaultCell, BitVec.or_assoc]
  · obtain ⟨hmasks, hvalues⟩ := fields_of_cell_one_or_two hfields (.inl ⟨rfl, rfl⟩)
    rw [hfield 1 (by decide), hmasks, hvalues, hdefault]
    rfl
  · obtain ⟨hmasks, hvalues⟩ := fields_of_cell_one_or_two hfields (.inr ⟨rfl, rfl⟩)
    rw [hfield 2 (by decide), hmasks, hvalues, hdefault]
    rfl
  · rw [ht3, ht4, ht8, hf]
    decide

end Sys2Proof.Machine
end
